-- ==== Sys2Proof/Word.lean ====
section
/-! DEFINITION. The widths of the Arca integer unit (spec 00_scope.md R1, R7; 20_memory.md R61). -/

namespace Sys2Proof

/-- A byte of memory, 8 bits (R60, R61). -/
abbrev Byte := BitVec 8

/-- A halfword, 16 bits (R61). -/
abbrev Half := BitVec 16

/-- A register, an address or an instruction word, 32 bits (R1, R8). -/
abbrev Word := BitVec 32

/-- A register number, the 5-bit field that selects one of R0 to R31 (R21, R103). -/
abbrev Reg := BitVec 5

end Sys2Proof
end

