-- ==== Sys2Proof/Machine/Flags.lean ====
section
/-! DEFINITION. The hardware has no flags (10_state.md R39): a comparison decides a branch or gives a boolean word. Here
are the six conditions of the branches and of the set instructions (42_branch.md R155, 43_arithmetic_compare.md R186). -/

namespace Sys2Proof.Machine

open Sys2Proof

/-- `==` (R8). -/
def condEq (x y : Word) : Bool := x == y

/-- `!=` (R8). -/
def condNe (x y : Word) : Bool := x != y

/-- `<s` (R8). -/
def condLt (x y : Word) : Bool := decide (x.toInt < y.toInt)

/-- `>=s` (R8). -/
def condGe (x y : Word) : Bool := decide (y.toInt ≤ x.toInt)

/-- `<u` (R8). -/
def condLtu (x y : Word) : Bool := decide (x.toNat < y.toNat)

/-- `>=u` (R8). -/
def condGeu (x y : Word) : Bool := decide (y.toNat ≤ x.toNat)

/-- The comparison result: 1 when the condition is satisfied, 0 when it is not (R186). -/
def boolWord (c : Bool) : Word := if c then 1#32 else 0#32

end Sys2Proof.Machine
end

