-- ==== Sys2Proof/Machine/Operands.lean ====
section
/-! DEFINITION. The operand forms: extension (00_scope.md R9), scaled immediates (30_encoding.md R104 to R107), branch and
jump targets (R146, R147, R156), effective addresses (46_load_store.md R231) and shift amounts (45_shift.md R216). -/

namespace Sys2Proof.Machine

open Sys2Proof

/-- `sext_32` (R9). -/
def sext32 {n : Nat} (v : BitVec n) : Word := v.signExtend 32

/-- `zext_32` (R9). -/
def zext32 {n : Nat} (v : BitVec n) : Word := v.setWidth 32

/-- The value LHI loads: the 21-bit field in the high bits, zeros below (R107, R141). -/
def lhiValue (u21 : BitVec 21) : Word := zext32 u21 <<< 11

/-- The target of J (R146). -/
def jumpTarget (pc : Word) (s21 : BitVec 21) : Word := pc + 4#32 + (sext32 s21 <<< 2)

/-- The target of JA: the register OR the scaled field (R147). -/
def absoluteTarget (base : Word) (u10 : BitVec 10) : Word := base ||| (zext32 u10 <<< 2)

/-- The target of the 14 branches (R156). -/
def branchTarget (pc : Word) (s10 : BitVec 10) : Word := pc + 4#32 + (sext32 s10 <<< 2)

/-- Mode R + R (R231). -/
def addrRR (base index : Word) : Word := base + index

/-- Mode R + (R << 1) (R231). -/
def addrRX2 (base index : Word) : Word := base + (index <<< 1)

/-- Mode R + (R << 2) (R231). -/
def addrRX4 (base index : Word) : Word := base + (index <<< 2)

/-- Mode R + Imm of a byte access (R231). -/
def addrDisp1 (base : Word) (s10 : BitVec 10) : Word := base + sext32 s10

/-- Mode R + Imm of a halfword access (R231, R232). -/
def addrDisp2 (base : Word) (s10 : BitVec 10) : Word := base + (sext32 s10 <<< 1)

/-- Mode R + Imm of a word access, SWAP (R231, R232, R274) and the address of a cache command (R297). -/
def addrDisp4 (base : Word) (s10 : BitVec 10) : Word := base + (sext32 s10 <<< 2)

/-- The shift amount in a register: its low 5 bits (R216). -/
def shiftAmount (v : Word) : Nat := (v &&& 0x1F#32).toNat

/-- `<<` (R8, R217, R220). -/
def shiftLeft (v : Word) (n : Nat) : Word := v <<< n

/-- `>>u` (R8, R218, R221). -/
def shiftRightLogical (v : Word) (n : Nat) : Word := v >>> n

/-- `>>s` (R8, R219, R222). -/
def shiftRightArithmetic (v : Word) (n : Nat) : Word := v.sshiftRight n

/-- The exact 64-bit product of two unsigned words (R184). -/
def unsignedProduct (x y : Word) : BitVec 64 := BitVec.ofNat 64 (x.toNat * y.toNat)

/-- `p[63:32]` (R184). -/
def highWord (p : BitVec 64) : Word := p.extractLsb' 32 32

/-- `p[31:0]` (R184). -/
def lowWord (p : BitVec 64) : Word := p.extractLsb' 0 32

/-- How many bits from bit `i` down to bit 0 equal `sign`, up to the first that does not (R272). -/
def countEqualBits (v : Word) (sign : Bool) (i : Nat) : Nat :=
  match i with
  | 0 => if v.getLsbD 0 == sign then 1 else 0
  | k + 1 => if v.getLsbD (k + 1) == sign then 1 + countEqualBits v sign k else 0

/-- CSB's count: the run of bits equal to bit 31, less one (R272). -/
def signBitCount (v : Word) : Word := BitVec.ofNat 32 (countEqualBits v (v.getLsbD 31) 30)

/-- BREV: the four bytes in the opposite order (R273). -/
def byteReverse (v : Word) : Word :=
  v.extractLsb' 0 8 ++ v.extractLsb' 8 8 ++ v.extractLsb' 16 8 ++ v.extractLsb' 24 8

end Sys2Proof.Machine
end

