-- ==== Sys2Proof/Config.lean ====
section
/-! DEFINITION. What the spec leaves to the implementation or the platform (00_scope.md R6), as plain data, and the
one free value of the model. A `Config` stands in the state (10_state.md R44 asks for the configured byte order there)
and no step changes it. -/

namespace Sys2Proof

/-- `ENDIAN` (R6, R62): the byte order of data, instruction fetches and vector reads. -/
inductive Endian where
  | big
  | little
  deriving DecidableEq, Repr

/-- `MISALIGNED_DATA` (R6, R64): what a misaligned halfword or word access does. -/
inductive MisalignedData where
  | refuse
  | dfault
  deriving DecidableEq, Repr

/-- `MISALIGNED_PC` (R6, R25): what a program counter with a non-zero low bit pair does at the fetch. -/
inductive MisalignedPc where
  | refuse
  | ifault
  deriving DecidableEq, Repr

/-- The two processor modes (R358): user is `SR.SM = 0`, supervisor is `SR.SM = 1`. -/
inductive Mode where
  | user
  | supervisor
  deriving DecidableEq, Repr

/-- The kind of a memory access in `AccessFault(kind, addr, size, mode)` (R67). -/
inductive AccessKind where
  | fetch
  | load
  | store
  deriving DecidableEq, Repr

/-- The width of a memory access (R65). -/
inductive AccessSize where
  | byte
  | half
  | word
  deriving DecidableEq, Repr

/-- One line of the platform predicate `AccessFault` (R6, R67): accesses of `kind` whose address lies from `first`
through `last` fault, for the size and mode named (`none`: for every one). The predicate is a finite list of such
lines; every predicate on kind, 32-bit address, size and mode is such a list. -/
structure AccessRule where
  kind : AccessKind
  first : Word
  last : Word
  size : Option AccessSize
  mode : Option Mode
  deriving DecidableEq, Repr

/-- The four units that ITLB, DTLB, ICACHE and DCACHE send a command to (R42, R295 to R298). -/
inductive CommandUnit where
  | itlb
  | dtlb
  | icache
  | dcache
  deriving DecidableEq, Repr

/-- One command of the platform oracle `CacheTlbCmd` (R6, R295 to R298): the unit that knows it, its code, and, for the
caches, whether it is one of the privileged ones ("a privilege instruction for some of CMD"). -/
structure CommandDef where
  unit : CommandUnit
  cmd : BitVec 4
  privileged : Bool
  deriving DecidableEq, Repr

/-- One use of a module control register by CLD or CST (R42, R293, R294). The platform's answers may depend on every use
made before, so the state keeps them all. -/
inductive ModuleAccess where
  | read (id : BitVec 3) (number : BitVec 9)
  | write (id : BitVec 3) (number : BitVec 9) (value : Word)
  deriving DecidableEq, Repr

/-- The implementation parameters of R6. -/
structure Config where
  /-- `ENDIAN`. -/
  endian : Endian
  /-- `MISALIGNED_DATA`. -/
  misalignedData : MisalignedData
  /-- `MISALIGNED_PC`. -/
  misalignedPc : MisalignedPc
  /-- `AccessFault`, as the list of the accesses that fault. -/
  accessRules : List AccessRule
  /-- `HOST_MODE` (R344): the debugger fixes the vector base at H'EC000000. -/
  hostMode : Bool
  /-- `DEBUG_MODULE`: recorded; the spec gives the module no behaviour, so no definition reads it (R353). -/
  debugModule : Bool
  /-- `SLEEP_PAUSE` (R289): the implementation's SLEEP is the pause mode. -/
  sleepPause : Bool
  /-- `ModuleRegs`: the (module ID, register number) pairs the platform answers for (R293, R294). -/
  moduleRegs : List (BitVec 3 × BitVec 9)
  /-- `CacheTlbCmd`: the commands the platform defines (R295 to R298). -/
  commands : List CommandDef
  /-- `IFETCH_COHERENT` (R74): a fetch sees the bytes the program has stored. -/
  ifetchCoherent : Bool
  /-- `MULU_LATENCY`: recorded; the model is untimed and no definition reads it (R404). -/
  muluLatency : Nat
  deriving DecidableEq, Repr

/-- The spec's defaults (R6). Two entries have none there and are the model's: the byte order (DESIGN CHOICE, log 2)
and MULU's latency, which no definition reads (DESIGN CHOICE, log 20). -/
def Config.default : Config where
  endian := .big
  misalignedData := .refuse
  misalignedPc := .refuse
  accessRules := []
  hostMode := false
  debugModule := false
  sleepPause := false
  moduleRegs := []
  commands := []
  ifetchCoherent := false
  muluLatency := 1

/-- FREE VALUE (R6, R293; log 5): what the platform answers to a read of register `number` of module `id`, after the
uses in `history` (the latest first). The spec places it under no law. -/
opaque Config.moduleRead (history : List ModuleAccess) (id : BitVec 3) (number : BitVec 9) : Word

end Sys2Proof
end

