-- ==== Sys2Proof/Syntax.lean ====
section
/-! DEFINITION. The instructions of the Arca ISA, one constructor per row of spec/opcode_table.json (79 rows: the 78
described instructions and MUL). Operands stand in the order of the assembly syntax (30_encoding.md R109, R122); an
immediate is the field itself, before extension and scaling (R108). -/

namespace Sys2Proof

inductive Instr where
  -- Immediate load (40_immediate_load.md).
  /-- LHI (R141): load high immediate. -/
  | lhi (ra : Reg) (i21 : BitVec 21)
  -- Jumps (41_jump.md).
  /-- J (R146): jump relative and link. -/
  | j (ra : Reg) (i21 : BitVec 21)
  /-- JA (R147): jump absolute and link. -/
  | ja (ra rb : Reg) (i10 : BitVec 10)
  -- Branches (42_branch.md): the first operand written is `rb`.
  /-- BEQ (R158): branch if equal. -/
  | beq (rb ra : Reg) (s10 : BitVec 10)
  /-- BNE (R159): branch if not equal. -/
  | bne (rb ra : Reg) (s10 : BitVec 10)
  /-- BLT (R160): branch if less than, signed. -/
  | blt (rb ra : Reg) (s10 : BitVec 10)
  /-- BGE (R161): branch if greater than or equal, signed. -/
  | bge (rb ra : Reg) (s10 : BitVec 10)
  /-- BLTU (R162): branch if less than, unsigned. -/
  | bltu (rb ra : Reg) (s10 : BitVec 10)
  /-- BGEU (R163): branch if greater than or equal, unsigned. -/
  | bgeu (rb ra : Reg) (s10 : BitVec 10)
  /-- BEQI (R165): branch if equal to a signed immediate. -/
  | beqi (rb : Reg) (imm5 : BitVec 5) (s10 : BitVec 10)
  /-- BNEI (R166): branch if not equal to a signed immediate. -/
  | bnei (rb : Reg) (imm5 : BitVec 5) (s10 : BitVec 10)
  /-- BLTI (R167): branch if less than a signed immediate. -/
  | blti (rb : Reg) (imm5 : BitVec 5) (s10 : BitVec 10)
  /-- BGEI (R168): branch if greater than or equal to a signed immediate. -/
  | bgei (rb : Reg) (imm5 : BitVec 5) (s10 : BitVec 10)
  /-- BEQUI (R169): branch if equal to an unsigned immediate. -/
  | bequi (rb : Reg) (imm5 : BitVec 5) (s10 : BitVec 10)
  /-- BNEUI (R170): branch if not equal to an unsigned immediate. -/
  | bneui (rb : Reg) (imm5 : BitVec 5) (s10 : BitVec 10)
  /-- BLTUI (R171): branch if less than an unsigned immediate, unsigned. -/
  | bltui (rb : Reg) (imm5 : BitVec 5) (s10 : BitVec 10)
  /-- BGEUI (R172): branch if greater than or equal to an unsigned immediate, unsigned. -/
  | bgeui (rb : Reg) (imm5 : BitVec 5) (s10 : BitVec 10)
  -- Arithmetic and comparison (43_arithmetic_compare.md).
  /-- ADD (R181): add. -/
  | add (ra rb rc : Reg)
  /-- ADDI (R182): add immediate. -/
  | addi (ra rb : Reg) (i10 : BitVec 10)
  /-- SUB (R183): subtract. -/
  | sub (ra rb rc : Reg)
  /-- MULU (R184): unsigned multiply, 64-bit product in `rh`:`ra`. -/
  | mulu (rh ra rb rc : Reg)
  /-- MUL (R185): a row of Table 3-4 that no source describes: no operand is known, so the constructor has none. -/
  | mul
  /-- SEQ (R187): set if equal. -/
  | seq (ra rb rc : Reg)
  /-- SNE (R188): set if not equal. -/
  | sne (ra rb rc : Reg)
  /-- SLT (R189): set if less than, signed. -/
  | slt (ra rb rc : Reg)
  /-- SGE (R190): set if greater than or equal, signed. -/
  | sge (ra rb rc : Reg)
  /-- SLTU (R191): set if less than, unsigned. -/
  | sltu (ra rb rc : Reg)
  /-- SGEU (R192): set if greater than or equal, unsigned. -/
  | sgeu (ra rb rc : Reg)
  -- Bitwise (44_bitwise.md).
  /-- AND (R201): and. -/
  | and (ra rb rc : Reg)
  /-- OR (R202): or. -/
  | or (ra rb rc : Reg)
  /-- XOR (R203): exclusive or. -/
  | xor (ra rb rc : Reg)
  /-- ANDN (R204): and with the complement of `rc`. -/
  | andn (ra rb rc : Reg)
  /-- ANDI (R205): and immediate. -/
  | andi (ra rb : Reg) (s16 : BitVec 16)
  /-- ORI (R206): or immediate. -/
  | ori (ra rb : Reg) (s16 : BitVec 16)
  /-- XORI (R207): exclusive or immediate. -/
  | xori (ra rb : Reg) (s16 : BitVec 16)
  -- Shifts (45_shift.md).
  /-- SLL (R217): shift left logical. -/
  | sll (ra rb rc : Reg)
  /-- SLR (R218): shift right logical. -/
  | slr (ra rb rc : Reg)
  /-- SAR (R219): shift right arithmetic. -/
  | sar (ra rb rc : Reg)
  /-- SLLI (R220): shift left logical by immediate. -/
  | slli (ra rb : Reg) (u5 : BitVec 5)
  /-- SLRI (R221): shift right logical by immediate. -/
  | slri (ra rb : Reg) (u5 : BitVec 5)
  /-- SARI (R222): shift right arithmetic by immediate. -/
  | sari (ra rb : Reg) (u5 : BitVec 5)
  -- Loads and stores (46_load_store.md): `ra` is the destination of a load and the data of a store.
  /-- LR8 (R236): load a byte at `rb + rc`, sign-extended. -/
  | lr8 (ra rb rc : Reg)
  /-- LR8U (R237): load a byte at `rb + rc`, zero-extended. -/
  | lr8u (ra rb rc : Reg)
  /-- LR16 (R238): load a halfword at `rb + rc`, sign-extended. -/
  | lr16 (ra rb rc : Reg)
  /-- LR16U (R239): load a halfword at `rb + rc`, zero-extended. -/
  | lr16u (ra rb rc : Reg)
  /-- LR32 (R240): load a word at `rb + rc`. -/
  | lr32 (ra rb rc : Reg)
  /-- LX16 (R241): load a halfword at `rb` plus the scaled index `rc`, sign-extended. -/
  | lx16 (ra rb rc : Reg)
  /-- LX16U (R242): load a halfword at `rb` plus the scaled index `rc`, zero-extended. -/
  | lx16u (ra rb rc : Reg)
  /-- LX32 (R243): load a word at `rb` plus the scaled index `rc`. -/
  | lx32 (ra rb rc : Reg)
  /-- LD8 (R244): load a byte at `rb` plus a displacement, sign-extended. -/
  | ld8 (ra rb : Reg) (i10 : BitVec 10)
  /-- LD8U (R245): load a byte at `rb` plus a displacement, zero-extended. -/
  | ld8u (ra rb : Reg) (i10 : BitVec 10)
  /-- LD16 (R246): load a halfword at `rb` plus a displacement, sign-extended. -/
  | ld16 (ra rb : Reg) (i10 : BitVec 10)
  /-- LD16U (R247): load a halfword at `rb` plus a displacement, zero-extended. -/
  | ld16u (ra rb : Reg) (i10 : BitVec 10)
  /-- LD32 (R248): load a word at `rb` plus a displacement. -/
  | ld32 (ra rb : Reg) (i10 : BitVec 10)
  /-- SR8 (R249): store a byte at `rb + rc`. -/
  | sr8 (ra rb rc : Reg)
  /-- SR16 (R250): store a halfword at `rb + rc`. -/
  | sr16 (ra rb rc : Reg)
  /-- SR32 (R251): store a word at `rb + rc`. -/
  | sr32 (ra rb rc : Reg)
  /-- SX16 (R252): store a halfword at `rb` plus the scaled index `rc`. -/
  | sx16 (ra rb rc : Reg)
  /-- SX32 (R253): store a word at `rb` plus the scaled index `rc`. -/
  | sx32 (ra rb rc : Reg)
  /-- SD8 (R254): store a byte at `rb` plus a displacement. -/
  | sd8 (ra rb : Reg) (i10 : BitVec 10)
  /-- SD16 (R255): store a halfword at `rb` plus a displacement. -/
  | sd16 (ra rb : Reg) (i10 : BitVec 10)
  /-- SD32 (R256): store a word at `rb` plus a displacement. -/
  | sd32 (ra rb : Reg) (i10 : BitVec 10)
  -- Miscellaneous (47_misc.md).
  /-- MVZ (R271): move if zero. -/
  | mvz (ra rb rc : Reg)
  /-- MVNZ (R275): move if not zero. -/
  | mvnz (ra rb rc : Reg)
  /-- CSB (R272): count sign bits. -/
  | csb (ra rb : Reg)
  /-- BREV (R273): byte reverse. -/
  | brev (ra rb : Reg)
  /-- SWAP (R274): exchange a register with a memory word. -/
  | swap (ra rb : Reg) (i10 : BitVec 10)
  -- System control (48_system.md).
  /-- TRAP (R286): software trap. -/
  | trap (ra : Reg) (s10 : BitVec 10)
  /-- SBRK (R287): software break. -/
  | sbrk
  /-- RTE (R288): return from exception. -/
  | rte
  /-- SLEEP (R289): enter the power down mode. -/
  | sleep
  /-- RCR (R291): read a control register. -/
  | rcr (ra : Reg) (cr : BitVec 5)
  /-- WCR (R292): write a control register. -/
  | wcr (ra : Reg) (cr : BitVec 5)
  /-- CLD (R293): load from a module control register. -/
  | cld (ra : Reg) (id : BitVec 3) (number : BitVec 10)
  /-- CST (R294): store to a module control register. -/
  | cst (ra : Reg) (id : BitVec 3) (number : BitVec 10)
  /-- ITLB (R295): send a command to the ITLB. -/
  | itlb (cmd : BitVec 4) (rb : Reg)
  /-- DTLB (R296): send a command to the DTLB. -/
  | dtlb (cmd : BitVec 4) (rb : Reg)
  /-- ICACHE (R297): send a command to the ICACHE. -/
  | icache (cmd : BitVec 4) (rb : Reg) (s10 : BitVec 10)
  /-- DCACHE (R298): send a command to the DCACHE. -/
  | dcache (cmd : BitVec 4) (rb : Reg) (s10 : BitVec 10)
  deriving DecidableEq, Repr

end Sys2Proof
end

