-- ==== Sys2Proof/WellFormed.lean ====
section
/-! DEFINITION. Which operands of an instruction the spec gives a meaning. The widths of the fields stand in the types of
`Instr`; what a type cannot say is checked here. -/

namespace Sys2Proof

/-- The index names one of the five control registers (10_state.md R26, 48_system.md R290). -/
def isControlRegister (cr : BitVec 5) : Bool :=
  cr == 0#5 || cr == 1#5 || cr == 2#5 || cr == 5#5 || cr == 6#5

/-- The number of a module control register is at most 511 (48_system.md R293, R294). -/
def isModuleNumber (number : BitVec 10) : Bool := number.toNat ≤ 511

/-- The two destinations of MULU differ, or both are R0 (43_arithmetic_compare.md R184). -/
def destinationsDiffer (rh ra : Reg) : Bool := rh != ra || ra == 0#5

/-- The operands of the instruction are ones the spec gives a meaning. -/
def WellFormed : Instr → Bool
  | .mulu rh ra _ _ => destinationsDiffer rh ra
  | .rcr _ cr => isControlRegister cr
  | .wcr _ cr => isControlRegister cr
  | .cld _ _ number => isModuleNumber number
  | .cst _ _ number => isModuleNumber number
  | .lhi _ _ | .j _ _ | .ja _ _ _ | .beq _ _ _ | .bne _ _ _ | .blt _ _ _ | .bge _ _ _ | .bltu _ _ _ | .bgeu _ _ _
  | .beqi _ _ _ | .bnei _ _ _ | .blti _ _ _ | .bgei _ _ _ | .bequi _ _ _ | .bneui _ _ _ | .bltui _ _ _
  | .bgeui _ _ _ | .add _ _ _ | .addi _ _ _ | .sub _ _ _ | .mul | .seq _ _ _ | .sne _ _ _ | .slt _ _ _
  | .sge _ _ _ | .sltu _ _ _ | .sgeu _ _ _ | .and _ _ _ | .or _ _ _ | .xor _ _ _ | .andn _ _ _ | .andi _ _ _
  | .ori _ _ _ | .xori _ _ _ | .sll _ _ _ | .slr _ _ _ | .sar _ _ _ | .slli _ _ _ | .slri _ _ _ | .sari _ _ _
  | .lr8 _ _ _ | .lr8u _ _ _ | .lr16 _ _ _ | .lr16u _ _ _ | .lr32 _ _ _ | .lx16 _ _ _ | .lx16u _ _ _ | .lx32 _ _ _
  | .ld8 _ _ _ | .ld8u _ _ _ | .ld16 _ _ _ | .ld16u _ _ _ | .ld32 _ _ _ | .sr8 _ _ _ | .sr16 _ _ _ | .sr32 _ _ _
  | .sx16 _ _ _ | .sx32 _ _ _ | .sd8 _ _ _ | .sd16 _ _ _ | .sd32 _ _ _ | .mvz _ _ _ | .mvnz _ _ _ | .csb _ _
  | .brev _ _ | .swap _ _ _ | .trap _ _ | .sbrk | .rte | .sleep | .itlb _ _ | .dtlb _ _ | .icache _ _ _
  | .dcache _ _ _ => true

end Sys2Proof
end

