-- ==== Sys2Proof/Decode.lean ====
section
/-! DEFINITION. The decoder and the encoder (30_encoding.md). The decoder is total: a word it gives no instruction is
rejected by name. The encoder writes zeros in the "don't care" fields (R111). -/

namespace Sys2Proof

/-- Why bytes are no instruction. -/
inductive DecodeError where
  /-- Fewer than the four bytes of an instruction (R100). -/
  | truncated
  /-- An unassigned encoding, a reserved instruction (R119): executing it raises ILLINS. -/
  | unassigned
  /-- A 1 in a field that the encoding box draws as 0 (R111): the spec gives it no meaning. -/
  | mustBeZero
  /-- The same in ITLB or DTLB, where the privilege check comes first (R295, R296). -/
  | mustBeZeroPrivileged
  deriving DecidableEq, Repr

/-! ## The slices of an instruction word (00_scope.md R12) -/

/-- OP1, the major operator, `insn[31:26]`. -/
def op1 (w : Word) : BitVec 6 := w.extractLsb' 26 6

/-- The first register field, `insn[25:21]`. -/
def f25 (w : Word) : BitVec 5 := w.extractLsb' 21 5

/-- The second register field, `insn[20:16]`. -/
def f20 (w : Word) : BitVec 5 := w.extractLsb' 16 5

/-- OP2, the minor operator, `insn[15:10]`. -/
def op2 (w : Word) : BitVec 6 := w.extractLsb' 10 6

/-- The third register field, `insn[9:5]`. -/
def f9 (w : Word) : BitVec 5 := w.extractLsb' 5 5

/-- The fourth register field, `insn[4:0]`. -/
def f4 (w : Word) : BitVec 5 := w.extractLsb' 0 5

/-- I10, `insn[9:0]` (R105). -/
def i10 (w : Word) : BitVec 10 := w.extractLsb' 0 10

/-- I16, `insn[15:0]` (R106). -/
def i16 (w : Word) : BitVec 16 := w.extractLsb' 0 16

/-- I21, `insn[20:0]` (R107). -/
def i21 (w : Word) : BitVec 21 := w.extractLsb' 0 21

/-- The two zero bits of the `00ID` cell, `insn[20:19]` (R104). -/
def mcrZero (w : Word) : BitVec 2 := w.extractLsb' 19 2

/-- The module ID of the `00ID` cell, `insn[18:16]` (R104). -/
def mcrId (w : Word) : BitVec 3 := w.extractLsb' 16 3

/-- The zero bit of the `0CMD` cell, `insn[25]` (R104). -/
def cmdZero (w : Word) : BitVec 1 := w.extractLsb' 25 1

/-- The command of the `0CMD` cell, `insn[24:21]` (R104). -/
def cmdCode (w : Word) : BitVec 4 := w.extractLsb' 21 4

/-! ## Decoding (R112 to R119) -/

/-- The instruction `i`, if the field drawn as zero is zero (R111). -/
def ifZero {n : Nat} (field : BitVec n) (i : Instr) : Except DecodeError Instr :=
  if field = 0#n then .ok i else .error .mustBeZero

/-- `ifZero` for an instruction whose privilege check comes before the check of the field (R295, R296). -/
def ifZeroPrivileged {n : Nat} (field : BitVec n) (i : Instr) : Except DecodeError Instr :=
  if field = 0#n then .ok i else .error .mustBeZeroPrivileged

/-- OP1 = `000000`: register-immediate ALU, JA, CSB, BREV, TLB and cache commands (R113). -/
def decodeImmediateGroup (w : Word) : Except DecodeError Instr :=
  match op2 w with
  | 0b000000#6 => .ok (.addi (f25 w) (f20 w) (i10 w))
  | 0b000001#6 => ifZero (cmdZero w) (.dcache (cmdCode w) (f20 w) (i10 w))
  | 0b000010#6 => .ok (.ja (f25 w) (f20 w) (i10 w))
  | 0b000100#6 => ifZero (f9 w) (.slli (f25 w) (f20 w) (f4 w))
  | 0b000101#6 => ifZero (cmdZero w) (.icache (cmdCode w) (f20 w) (i10 w))
  | 0b001000#6 => ifZero (f9 w) (.slri (f25 w) (f20 w) (f4 w))
  | 0b001001#6 => ifZeroPrivileged (cmdZero w) (.dtlb (cmdCode w) (f20 w))
  | 0b001100#6 => ifZero (f9 w) (.sari (f25 w) (f20 w) (f4 w))
  | 0b001101#6 => ifZeroPrivileged (cmdZero w) (.itlb (cmdCode w) (f20 w))
  | 0b010100#6 => .ok (.csb (f25 w) (f20 w))
  | 0b011000#6 => .ok (.brev (f25 w) (f20 w))
  | _ => .error .unassigned

/-- OP1 = `000010`: three-register ALU (R114). -/
def decodeRegisterGroup (w : Word) : Except DecodeError Instr :=
  match op2 w with
  | 0b000000#6 => .ok (.add (f4 w) (f20 w) (f25 w))
  | 0b000001#6 => .ok (.and (f4 w) (f20 w) (f25 w))
  | 0b000010#6 => .ok (.or (f4 w) (f20 w) (f25 w))
  | 0b000011#6 => .ok (.xor (f4 w) (f20 w) (f25 w))
  | 0b000100#6 => .ok (.sll (f4 w) (f20 w) (f25 w))
  | 0b001000#6 => .ok (.slr (f4 w) (f20 w) (f25 w))
  | 0b001001#6 => .ok (.mvz (f4 w) (f20 w) (f25 w))
  | 0b001100#6 => .ok (.sar (f4 w) (f20 w) (f25 w))
  | 0b001101#6 => .ok (.mvnz (f4 w) (f20 w) (f25 w))
  | 0b010000#6 => .ok (.sge (f4 w) (f20 w) (f25 w))
  | 0b010001#6 => .ok (.mulu (f9 w) (f4 w) (f20 w) (f25 w))
  | 0b010010#6 => .ok (.sne (f4 w) (f20 w) (f25 w))
  | 0b010100#6 => .ok (.slt (f4 w) (f20 w) (f25 w))
  | 0b010110#6 => .ok (.seq (f4 w) (f20 w) (f25 w))
  | 0b011000#6 => .ok (.sgeu (f4 w) (f20 w) (f25 w))
  | 0b011100#6 => .ok (.sltu (f4 w) (f20 w) (f25 w))
  | 0b100000#6 => .ok (.sub (f4 w) (f20 w) (f25 w))
  | 0b100001#6 => .ok (.andn (f4 w) (f20 w) (f25 w))
  | 0b110001#6 => .ok .mul
  | _ => .error .unassigned

/-- OP1 = `000100`: branches with an immediate (R115). -/
def decodeBranchImmediateGroup (w : Word) : Except DecodeError Instr :=
  match op2 w with
  | 0b000000#6 => .ok (.bgei (f20 w) (f25 w) (i10 w))
  | 0b000010#6 => .ok (.bnei (f20 w) (f25 w) (i10 w))
  | 0b000100#6 => .ok (.blti (f20 w) (f25 w) (i10 w))
  | 0b000110#6 => .ok (.beqi (f20 w) (f25 w) (i10 w))
  | 0b001000#6 => .ok (.bgeui (f20 w) (f25 w) (i10 w))
  | 0b001010#6 => .ok (.bneui (f20 w) (f25 w) (i10 w))
  | 0b001100#6 => .ok (.bltui (f20 w) (f25 w) (i10 w))
  | 0b001110#6 => .ok (.bequi (f20 w) (f25 w) (i10 w))
  | _ => .error .unassigned

/-- OP1 = `000110`: branches with two registers (R115). -/
def decodeBranchGroup (w : Word) : Except DecodeError Instr :=
  match op2 w with
  | 0b000000#6 => .ok (.bge (f20 w) (f25 w) (i10 w))
  | 0b000010#6 => .ok (.bne (f20 w) (f25 w) (i10 w))
  | 0b000100#6 => .ok (.blt (f20 w) (f25 w) (i10 w))
  | 0b000110#6 => .ok (.beq (f20 w) (f25 w) (i10 w))
  | 0b001000#6 => .ok (.bgeu (f20 w) (f25 w) (i10 w))
  | 0b001100#6 => .ok (.bltu (f20 w) (f25 w) (i10 w))
  | _ => .error .unassigned

/-- OP1 = `001000`: loads and stores with a displacement, SWAP (R116). -/
def decodeDisplacementGroup (w : Word) : Except DecodeError Instr :=
  match op2 w with
  | 0b000000#6 => .ok (.ld32 (f25 w) (f20 w) (i10 w))
  | 0b000001#6 => .ok (.sd32 (f25 w) (f20 w) (i10 w))
  | 0b000010#6 => .ok (.ld16 (f25 w) (f20 w) (i10 w))
  | 0b000011#6 => .ok (.sd16 (f25 w) (f20 w) (i10 w))
  | 0b000110#6 => .ok (.ld8 (f25 w) (f20 w) (i10 w))
  | 0b000111#6 => .ok (.sd8 (f25 w) (f20 w) (i10 w))
  | 0b001010#6 => .ok (.ld16u (f25 w) (f20 w) (i10 w))
  | 0b001110#6 => .ok (.ld8u (f25 w) (f20 w) (i10 w))
  | 0b001111#6 => .ok (.swap (f25 w) (f20 w) (i10 w))
  | _ => .error .unassigned

/-- OP1 = `001010`: loads and stores with a register offset or a scaled index (R116). -/
def decodeIndexGroup (w : Word) : Except DecodeError Instr :=
  match op2 w with
  | 0b000000#6 => .ok (.lr32 (f4 w) (f20 w) (f25 w))
  | 0b000001#6 => .ok (.sr32 (f4 w) (f20 w) (f25 w))
  | 0b000010#6 => .ok (.lr16 (f4 w) (f20 w) (f25 w))
  | 0b000011#6 => .ok (.sr16 (f4 w) (f20 w) (f25 w))
  | 0b000110#6 => .ok (.lr8 (f4 w) (f20 w) (f25 w))
  | 0b000111#6 => .ok (.sr8 (f4 w) (f20 w) (f25 w))
  | 0b001010#6 => .ok (.lr16u (f4 w) (f20 w) (f25 w))
  | 0b001110#6 => .ok (.lr8u (f4 w) (f20 w) (f25 w))
  | 0b010000#6 => .ok (.lx32 (f4 w) (f20 w) (f25 w))
  | 0b010001#6 => .ok (.sx32 (f4 w) (f20 w) (f25 w))
  | 0b010010#6 => .ok (.lx16 (f4 w) (f20 w) (f25 w))
  | 0b010011#6 => .ok (.sx16 (f4 w) (f20 w) (f25 w))
  | 0b011010#6 => .ok (.lx16u (f4 w) (f20 w) (f25 w))
  | _ => .error .unassigned

/-- OP1 = `011001`: system control (R117). -/
def decodeSystemGroup (w : Word) : Except DecodeError Instr :=
  match op2 w with
  | 0b000000#6 => .ok (.trap (f25 w) (i10 w))
  | 0b000001#6 => .ok .rte
  | 0b000011#6 => .ok .sleep
  | 0b000100#6 => .ok (.rcr (f25 w) (f4 w))
  | 0b000101#6 => .ok (.wcr (f25 w) (f4 w))
  | 0b001000#6 => ifZero (mcrZero w) (.cld (f25 w) (mcrId w) (i10 w))
  | 0b001001#6 => ifZero (mcrZero w) (.cst (f25 w) (mcrId w) (i10 w))
  | 0b010011#6 => .ok .sbrk
  | _ => .error .unassigned

/-- The instruction a word is (R118): OP1 first, then, for the groups that have one, OP2. -/
def decode (w : Word) : Except DecodeError Instr :=
  match op1 w with
  | 0b000000#6 => decodeImmediateGroup w
  | 0b000010#6 => decodeRegisterGroup w
  | 0b000100#6 => decodeBranchImmediateGroup w
  | 0b000101#6 => .ok (.j (f25 w) (i21 w))
  | 0b000110#6 => decodeBranchGroup w
  | 0b001000#6 => decodeDisplacementGroup w
  | 0b001001#6 => .ok (.lhi (f25 w) (i21 w))
  | 0b001010#6 => decodeIndexGroup w
  | 0b001100#6 => .ok (.andi (f25 w) (f20 w) (i16 w))
  | 0b010100#6 => .ok (.ori (f25 w) (f20 w) (i16 w))
  | 0b011000#6 => .ok (.xori (f25 w) (f20 w) (i16 w))
  | 0b011001#6 => decodeSystemGroup w
  | _ => .error .unassigned

/-! ## Byte order of an instruction word (20_memory.md R62, R63) -/

/-- The word whose bytes stand at `A`, `A+1`, `A+2`, `A+3` in that order (R62). -/
def wordOfBytes (e : Endian) (b0 b1 b2 b3 : Byte) : Word :=
  match e with
  | .big => b0 ++ b1 ++ b2 ++ b3
  | .little => b3 ++ b2 ++ b1 ++ b0

/-- Byte `k` of a word, counted from address `A` (R62): bits `31-8k : 24-8k` in big-endian, `8k+7 : 8k` in
little-endian. -/
def byteOfWord (e : Endian) (w : Word) (k : Nat) : Byte :=
  match e with
  | .big => w.extractLsb' (24 - 8 * k) 8
  | .little => w.extractLsb' (8 * k) 8

/-- The four bytes of a word in the order memory holds them. -/
def bytesOfWord (e : Endian) (w : Word) : List Byte :=
  [byteOfWord e w 0, byteOfWord e w 1, byteOfWord e w 2, byteOfWord e w 3]

/-- The instruction that the first four bytes are. -/
def decodeBytes (e : Endian) : List Byte → Except DecodeError Instr
  | b0 :: b1 :: b2 :: b3 :: _ => decode (wordOfBytes e b0 b1 b2 b3)
  | _ => .error .truncated

/-- The instruction the decoder reads from the bits of a row of spec/opcode_table.json: the low `nbits` of `w`, laid out
in memory as the word's bytes. The words are the same for either byte order (95_test_vectors.md, conventions). -/
def decodeTableWord (nbits w : Nat) : Option Instr :=
  match decodeBytes .big (bytesOfWord .big (BitVec.ofNat 32 (w % 2 ^ nbits))) with
  | .ok i => some i
  | .error _ => none

/-! ## Encoding (R109) -/

/-- The field `v` with its least significant bit at bit `lo` of an instruction word. -/
def placeAt {n : Nat} (lo : Nat) (v : BitVec n) : Word := v.setWidth 32 <<< lo

/-- OP1 and OP2 in their places. -/
def encOps (o1 o2 : BitVec 6) : Word := placeAt 26 o1 ||| placeAt 10 o2

/-- Layout `RRR`. -/
def encRRR (o1 o2 : BitVec 6) (ra rb rc : Reg) : Word :=
  encOps o1 o2 ||| placeAt 21 rc ||| placeAt 16 rb ||| placeAt 0 ra

/-- Layout `RRRR`. -/
def encRRRR (o1 o2 : BitVec 6) (rh ra rb rc : Reg) : Word :=
  encOps o1 o2 ||| placeAt 21 rc ||| placeAt 16 rb ||| placeAt 5 rh ||| placeAt 0 ra

/-- Layout `RRI5`. -/
def encRRI5 (o1 o2 : BitVec 6) (ra rb : Reg) (u5 : BitVec 5) : Word :=
  encOps o1 o2 ||| placeAt 21 ra ||| placeAt 16 rb ||| placeAt 0 u5

/-- Layouts `RRI10`, `BCC` (`x` is Ra) and `BCCI` (`x` is the 5-bit immediate). -/
def encRRI10 (o1 o2 : BitVec 6) (x rb : BitVec 5) (imm : BitVec 10) : Word :=
  encOps o1 o2 ||| placeAt 21 x ||| placeAt 16 rb ||| placeAt 0 imm

/-- Layout `RR`. -/
def encRR (o1 o2 : BitVec 6) (ra rb : Reg) : Word :=
  encOps o1 o2 ||| placeAt 21 ra ||| placeAt 16 rb

/-- Layout `RRI16`. -/
def encRRI16 (o1 : BitVec 6) (ra rb : Reg) (imm : BitVec 16) : Word :=
  placeAt 26 o1 ||| placeAt 21 ra ||| placeAt 16 rb ||| placeAt 0 imm

/-- Layout `RI21`. -/
def encRI21 (o1 : BitVec 6) (ra : Reg) (imm : BitVec 21) : Word :=
  placeAt 26 o1 ||| placeAt 21 ra ||| placeAt 0 imm

/-- Layout `MCR`. -/
def encMCR (o1 o2 : BitVec 6) (ra : Reg) (id : BitVec 3) (number : BitVec 10) : Word :=
  encOps o1 o2 ||| placeAt 21 ra ||| placeAt 16 id ||| placeAt 0 number

/-- Layout `CR`. -/
def encCR (o1 o2 : BitVec 6) (ra : Reg) (cr : BitVec 5) : Word :=
  encOps o1 o2 ||| placeAt 21 ra ||| placeAt 0 cr

/-- Layout `TRAP`. -/
def encTRAP (o1 o2 : BitVec 6) (ra : Reg) (imm : BitVec 10) : Word :=
  encOps o1 o2 ||| placeAt 21 ra ||| placeAt 0 imm

/-- Layout `TLB`. -/
def encTLB (o1 o2 : BitVec 6) (cmd : BitVec 4) (rb : Reg) : Word :=
  encOps o1 o2 ||| placeAt 21 cmd ||| placeAt 16 rb

/-- Layout `CACHE`. -/
def encCACHE (o1 o2 : BitVec 6) (cmd : BitVec 4) (rb : Reg) (imm : BitVec 10) : Word :=
  encOps o1 o2 ||| placeAt 21 cmd ||| placeAt 16 rb ||| placeAt 0 imm

/-- The word of an instruction (R109, R112 to R117), with zeros in the fields the hardware does not look at. -/
def encode : Instr → Word
  | .lhi ra imm => encRI21 0b001001#6 ra imm
  | .j ra imm => encRI21 0b000101#6 ra imm
  | .ja ra rb imm => encRRI10 0b000000#6 0b000010#6 ra rb imm
  | .beq rb ra imm => encRRI10 0b000110#6 0b000110#6 ra rb imm
  | .bne rb ra imm => encRRI10 0b000110#6 0b000010#6 ra rb imm
  | .blt rb ra imm => encRRI10 0b000110#6 0b000100#6 ra rb imm
  | .bge rb ra imm => encRRI10 0b000110#6 0b000000#6 ra rb imm
  | .bltu rb ra imm => encRRI10 0b000110#6 0b001100#6 ra rb imm
  | .bgeu rb ra imm => encRRI10 0b000110#6 0b001000#6 ra rb imm
  | .beqi rb imm5 imm => encRRI10 0b000100#6 0b000110#6 imm5 rb imm
  | .bnei rb imm5 imm => encRRI10 0b000100#6 0b000010#6 imm5 rb imm
  | .blti rb imm5 imm => encRRI10 0b000100#6 0b000100#6 imm5 rb imm
  | .bgei rb imm5 imm => encRRI10 0b000100#6 0b000000#6 imm5 rb imm
  | .bequi rb imm5 imm => encRRI10 0b000100#6 0b001110#6 imm5 rb imm
  | .bneui rb imm5 imm => encRRI10 0b000100#6 0b001010#6 imm5 rb imm
  | .bltui rb imm5 imm => encRRI10 0b000100#6 0b001100#6 imm5 rb imm
  | .bgeui rb imm5 imm => encRRI10 0b000100#6 0b001000#6 imm5 rb imm
  | .add ra rb rc => encRRR 0b000010#6 0b000000#6 ra rb rc
  | .addi ra rb imm => encRRI10 0b000000#6 0b000000#6 ra rb imm
  | .sub ra rb rc => encRRR 0b000010#6 0b100000#6 ra rb rc
  | .mulu rh ra rb rc => encRRRR 0b000010#6 0b010001#6 rh ra rb rc
  | .mul => encOps 0b000010#6 0b110001#6
  | .seq ra rb rc => encRRR 0b000010#6 0b010110#6 ra rb rc
  | .sne ra rb rc => encRRR 0b000010#6 0b010010#6 ra rb rc
  | .slt ra rb rc => encRRR 0b000010#6 0b010100#6 ra rb rc
  | .sge ra rb rc => encRRR 0b000010#6 0b010000#6 ra rb rc
  | .sltu ra rb rc => encRRR 0b000010#6 0b011100#6 ra rb rc
  | .sgeu ra rb rc => encRRR 0b000010#6 0b011000#6 ra rb rc
  | .and ra rb rc => encRRR 0b000010#6 0b000001#6 ra rb rc
  | .or ra rb rc => encRRR 0b000010#6 0b000010#6 ra rb rc
  | .xor ra rb rc => encRRR 0b000010#6 0b000011#6 ra rb rc
  | .andn ra rb rc => encRRR 0b000010#6 0b100001#6 ra rb rc
  | .andi ra rb imm => encRRI16 0b001100#6 ra rb imm
  | .ori ra rb imm => encRRI16 0b010100#6 ra rb imm
  | .xori ra rb imm => encRRI16 0b011000#6 ra rb imm
  | .sll ra rb rc => encRRR 0b000010#6 0b000100#6 ra rb rc
  | .slr ra rb rc => encRRR 0b000010#6 0b001000#6 ra rb rc
  | .sar ra rb rc => encRRR 0b000010#6 0b001100#6 ra rb rc
  | .slli ra rb u5 => encRRI5 0b000000#6 0b000100#6 ra rb u5
  | .slri ra rb u5 => encRRI5 0b000000#6 0b001000#6 ra rb u5
  | .sari ra rb u5 => encRRI5 0b000000#6 0b001100#6 ra rb u5
  | .lr8 ra rb rc => encRRR 0b001010#6 0b000110#6 ra rb rc
  | .lr8u ra rb rc => encRRR 0b001010#6 0b001110#6 ra rb rc
  | .lr16 ra rb rc => encRRR 0b001010#6 0b000010#6 ra rb rc
  | .lr16u ra rb rc => encRRR 0b001010#6 0b001010#6 ra rb rc
  | .lr32 ra rb rc => encRRR 0b001010#6 0b000000#6 ra rb rc
  | .lx16 ra rb rc => encRRR 0b001010#6 0b010010#6 ra rb rc
  | .lx16u ra rb rc => encRRR 0b001010#6 0b011010#6 ra rb rc
  | .lx32 ra rb rc => encRRR 0b001010#6 0b010000#6 ra rb rc
  | .ld8 ra rb imm => encRRI10 0b001000#6 0b000110#6 ra rb imm
  | .ld8u ra rb imm => encRRI10 0b001000#6 0b001110#6 ra rb imm
  | .ld16 ra rb imm => encRRI10 0b001000#6 0b000010#6 ra rb imm
  | .ld16u ra rb imm => encRRI10 0b001000#6 0b001010#6 ra rb imm
  | .ld32 ra rb imm => encRRI10 0b001000#6 0b000000#6 ra rb imm
  | .sr8 ra rb rc => encRRR 0b001010#6 0b000111#6 ra rb rc
  | .sr16 ra rb rc => encRRR 0b001010#6 0b000011#6 ra rb rc
  | .sr32 ra rb rc => encRRR 0b001010#6 0b000001#6 ra rb rc
  | .sx16 ra rb rc => encRRR 0b001010#6 0b010011#6 ra rb rc
  | .sx32 ra rb rc => encRRR 0b001010#6 0b010001#6 ra rb rc
  | .sd8 ra rb imm => encRRI10 0b001000#6 0b000111#6 ra rb imm
  | .sd16 ra rb imm => encRRI10 0b001000#6 0b000011#6 ra rb imm
  | .sd32 ra rb imm => encRRI10 0b001000#6 0b000001#6 ra rb imm
  | .mvz ra rb rc => encRRR 0b000010#6 0b001001#6 ra rb rc
  | .mvnz ra rb rc => encRRR 0b000010#6 0b001101#6 ra rb rc
  | .csb ra rb => encRR 0b000000#6 0b010100#6 ra rb
  | .brev ra rb => encRR 0b000000#6 0b011000#6 ra rb
  | .swap ra rb imm => encRRI10 0b001000#6 0b001111#6 ra rb imm
  | .trap ra imm => encTRAP 0b011001#6 0b000000#6 ra imm
  | .sbrk => encOps 0b011001#6 0b010011#6
  | .rte => encOps 0b011001#6 0b000001#6
  | .sleep => encOps 0b011001#6 0b000011#6
  | .rcr ra cr => encCR 0b011001#6 0b000100#6 ra cr
  | .wcr ra cr => encCR 0b011001#6 0b000101#6 ra cr
  | .cld ra id number => encMCR 0b011001#6 0b001000#6 ra id number
  | .cst ra id number => encMCR 0b011001#6 0b001001#6 ra id number
  | .itlb cmd rb => encTLB 0b000000#6 0b001101#6 cmd rb
  | .dtlb cmd rb => encTLB 0b000000#6 0b001001#6 cmd rb
  | .icache cmd rb imm => encCACHE 0b000000#6 0b000101#6 cmd rb imm
  | .dcache cmd rb imm => encCACHE 0b000000#6 0b000001#6 cmd rb imm

/-- The bytes of an instruction in the order memory holds them. -/
def encodeBytes (e : Endian) (i : Instr) : List Byte := bytesOfWord e (encode i)

/-! ## The opcode table (spec/opcode_table.json) -/

/-- A row of the opcode table: the bits that are fixed, their values, and the bits of the fields. -/
structure OpcodeRow where
  mask : Word
  pattern : Word
  fields : Word
  deriving DecidableEq, Repr

/-- The row of each instruction, copied from spec/opcode_table.json and not from the decoder. -/
def opcodeRow : Instr → OpcodeRow
  | .lhi _ _ => ⟨0xfc000000#32, 0x24000000#32, 0x03ffffff#32⟩
  | .j _ _ => ⟨0xfc000000#32, 0x14000000#32, 0x03ffffff#32⟩
  | .ja _ _ _ => ⟨0xfc00fc00#32, 0x00000800#32, 0x03ff03ff#32⟩
  | .beq _ _ _ => ⟨0xfc00fc00#32, 0x18001800#32, 0x03ff03ff#32⟩
  | .bne _ _ _ => ⟨0xfc00fc00#32, 0x18000800#32, 0x03ff03ff#32⟩
  | .blt _ _ _ => ⟨0xfc00fc00#32, 0x18001000#32, 0x03ff03ff#32⟩
  | .bge _ _ _ => ⟨0xfc00fc00#32, 0x18000000#32, 0x03ff03ff#32⟩
  | .bltu _ _ _ => ⟨0xfc00fc00#32, 0x18003000#32, 0x03ff03ff#32⟩
  | .bgeu _ _ _ => ⟨0xfc00fc00#32, 0x18002000#32, 0x03ff03ff#32⟩
  | .beqi _ _ _ => ⟨0xfc00fc00#32, 0x10001800#32, 0x03ff03ff#32⟩
  | .bnei _ _ _ => ⟨0xfc00fc00#32, 0x10000800#32, 0x03ff03ff#32⟩
  | .blti _ _ _ => ⟨0xfc00fc00#32, 0x10001000#32, 0x03ff03ff#32⟩
  | .bgei _ _ _ => ⟨0xfc00fc00#32, 0x10000000#32, 0x03ff03ff#32⟩
  | .bequi _ _ _ => ⟨0xfc00fc00#32, 0x10003800#32, 0x03ff03ff#32⟩
  | .bneui _ _ _ => ⟨0xfc00fc00#32, 0x10002800#32, 0x03ff03ff#32⟩
  | .bltui _ _ _ => ⟨0xfc00fc00#32, 0x10003000#32, 0x03ff03ff#32⟩
  | .bgeui _ _ _ => ⟨0xfc00fc00#32, 0x10002000#32, 0x03ff03ff#32⟩
  | .add _ _ _ => ⟨0xfc00fc00#32, 0x08000000#32, 0x03ff001f#32⟩
  | .addi _ _ _ => ⟨0xfc00fc00#32, 0x00000000#32, 0x03ff03ff#32⟩
  | .sub _ _ _ => ⟨0xfc00fc00#32, 0x08008000#32, 0x03ff001f#32⟩
  | .mulu _ _ _ _ => ⟨0xfc00fc00#32, 0x08004400#32, 0x03ff03ff#32⟩
  | .mul => ⟨0xfc00fc00#32, 0x0800c400#32, 0x00000000#32⟩
  | .seq _ _ _ => ⟨0xfc00fc00#32, 0x08005800#32, 0x03ff001f#32⟩
  | .sne _ _ _ => ⟨0xfc00fc00#32, 0x08004800#32, 0x03ff001f#32⟩
  | .slt _ _ _ => ⟨0xfc00fc00#32, 0x08005000#32, 0x03ff001f#32⟩
  | .sge _ _ _ => ⟨0xfc00fc00#32, 0x08004000#32, 0x03ff001f#32⟩
  | .sltu _ _ _ => ⟨0xfc00fc00#32, 0x08007000#32, 0x03ff001f#32⟩
  | .sgeu _ _ _ => ⟨0xfc00fc00#32, 0x08006000#32, 0x03ff001f#32⟩
  | .and _ _ _ => ⟨0xfc00fc00#32, 0x08000400#32, 0x03ff001f#32⟩
  | .or _ _ _ => ⟨0xfc00fc00#32, 0x08000800#32, 0x03ff001f#32⟩
  | .xor _ _ _ => ⟨0xfc00fc00#32, 0x08000c00#32, 0x03ff001f#32⟩
  | .andn _ _ _ => ⟨0xfc00fc00#32, 0x08008400#32, 0x03ff001f#32⟩
  | .andi _ _ _ => ⟨0xfc000000#32, 0x30000000#32, 0x03ffffff#32⟩
  | .ori _ _ _ => ⟨0xfc000000#32, 0x50000000#32, 0x03ffffff#32⟩
  | .xori _ _ _ => ⟨0xfc000000#32, 0x60000000#32, 0x03ffffff#32⟩
  | .sll _ _ _ => ⟨0xfc00fc00#32, 0x08001000#32, 0x03ff001f#32⟩
  | .slr _ _ _ => ⟨0xfc00fc00#32, 0x08002000#32, 0x03ff001f#32⟩
  | .sar _ _ _ => ⟨0xfc00fc00#32, 0x08003000#32, 0x03ff001f#32⟩
  | .slli _ _ _ => ⟨0xfc00ffe0#32, 0x00001000#32, 0x03ff001f#32⟩
  | .slri _ _ _ => ⟨0xfc00ffe0#32, 0x00002000#32, 0x03ff001f#32⟩
  | .sari _ _ _ => ⟨0xfc00ffe0#32, 0x00003000#32, 0x03ff001f#32⟩
  | .lr8 _ _ _ => ⟨0xfc00fc00#32, 0x28001800#32, 0x03ff001f#32⟩
  | .lr8u _ _ _ => ⟨0xfc00fc00#32, 0x28003800#32, 0x03ff001f#32⟩
  | .lr16 _ _ _ => ⟨0xfc00fc00#32, 0x28000800#32, 0x03ff001f#32⟩
  | .lr16u _ _ _ => ⟨0xfc00fc00#32, 0x28002800#32, 0x03ff001f#32⟩
  | .lr32 _ _ _ => ⟨0xfc00fc00#32, 0x28000000#32, 0x03ff001f#32⟩
  | .lx16 _ _ _ => ⟨0xfc00fc00#32, 0x28004800#32, 0x03ff001f#32⟩
  | .lx16u _ _ _ => ⟨0xfc00fc00#32, 0x28006800#32, 0x03ff001f#32⟩
  | .lx32 _ _ _ => ⟨0xfc00fc00#32, 0x28004000#32, 0x03ff001f#32⟩
  | .ld8 _ _ _ => ⟨0xfc00fc00#32, 0x20001800#32, 0x03ff03ff#32⟩
  | .ld8u _ _ _ => ⟨0xfc00fc00#32, 0x20003800#32, 0x03ff03ff#32⟩
  | .ld16 _ _ _ => ⟨0xfc00fc00#32, 0x20000800#32, 0x03ff03ff#32⟩
  | .ld16u _ _ _ => ⟨0xfc00fc00#32, 0x20002800#32, 0x03ff03ff#32⟩
  | .ld32 _ _ _ => ⟨0xfc00fc00#32, 0x20000000#32, 0x03ff03ff#32⟩
  | .sr8 _ _ _ => ⟨0xfc00fc00#32, 0x28001c00#32, 0x03ff001f#32⟩
  | .sr16 _ _ _ => ⟨0xfc00fc00#32, 0x28000c00#32, 0x03ff001f#32⟩
  | .sr32 _ _ _ => ⟨0xfc00fc00#32, 0x28000400#32, 0x03ff001f#32⟩
  | .sx16 _ _ _ => ⟨0xfc00fc00#32, 0x28004c00#32, 0x03ff001f#32⟩
  | .sx32 _ _ _ => ⟨0xfc00fc00#32, 0x28004400#32, 0x03ff001f#32⟩
  | .sd8 _ _ _ => ⟨0xfc00fc00#32, 0x20001c00#32, 0x03ff03ff#32⟩
  | .sd16 _ _ _ => ⟨0xfc00fc00#32, 0x20000c00#32, 0x03ff03ff#32⟩
  | .sd32 _ _ _ => ⟨0xfc00fc00#32, 0x20000400#32, 0x03ff03ff#32⟩
  | .mvz _ _ _ => ⟨0xfc00fc00#32, 0x08002400#32, 0x03ff001f#32⟩
  | .mvnz _ _ _ => ⟨0xfc00fc00#32, 0x08003400#32, 0x03ff001f#32⟩
  | .csb _ _ => ⟨0xfc00fc00#32, 0x00005000#32, 0x03ff0000#32⟩
  | .brev _ _ => ⟨0xfc00fc00#32, 0x00006000#32, 0x03ff0000#32⟩
  | .swap _ _ _ => ⟨0xfc00fc00#32, 0x20003c00#32, 0x03ff03ff#32⟩
  | .trap _ _ => ⟨0xfc00fc00#32, 0x64000000#32, 0x03e003ff#32⟩
  | .sbrk => ⟨0xfc00fc00#32, 0x64004c00#32, 0x00000000#32⟩
  | .rte => ⟨0xfc00fc00#32, 0x64000400#32, 0x00000000#32⟩
  | .sleep => ⟨0xfc00fc00#32, 0x64000c00#32, 0x00000000#32⟩
  | .rcr _ _ => ⟨0xfc00fc00#32, 0x64001000#32, 0x03e0001f#32⟩
  | .wcr _ _ => ⟨0xfc00fc00#32, 0x64001400#32, 0x03e0001f#32⟩
  | .cld _ _ _ => ⟨0xfc18fc00#32, 0x64002000#32, 0x03e703ff#32⟩
  | .cst _ _ _ => ⟨0xfc18fc00#32, 0x64002400#32, 0x03e703ff#32⟩
  | .itlb _ _ => ⟨0xfe00fc00#32, 0x00003400#32, 0x01ff0000#32⟩
  | .dtlb _ _ => ⟨0xfe00fc00#32, 0x00002400#32, 0x01ff0000#32⟩
  | .icache _ _ _ => ⟨0xfe00fc00#32, 0x00001400#32, 0x01ff03ff#32⟩
  | .dcache _ _ _ => ⟨0xfe00fc00#32, 0x00000400#32, 0x01ff03ff#32⟩

end Sys2Proof
end

