-- ==== Sys2Proof/Machine/Memory.lean ====
section
/-! DEFINITION. Memory as plain data: the bytes that differ from what an unlisted address reads as, by rising address
(20_memory.md R60, R62). -/

namespace Sys2Proof.Machine

open Sys2Proof

/-- Memory: a list of (address, byte) pairs in the canonical form `Memory.wf`. -/
abbrev Memory := List Host.Cell

/-- What a byte that no entry lists reads as. DESIGN CHOICE, unsafe (log 1): the spec gives launch memory no contents
(R43; 92_eei_decisions.md D29). -/
def unlistedByte : Byte := 0#8

/-- The canonical form: addresses strictly rising and below 2^32, no entry equal to what an unlisted address reads as. -/
def Memory.wf : Memory → Bool
  | [] => true
  | c :: rest => decide (c.1 < 2 ^ 32) && c.2 != unlistedByte && rest.all (fun d => decide (c.1 < d.1)) && Memory.wf rest

/-- The byte at an address (R60). -/
def Memory.byteAt (m : Memory) (a : Nat) : Byte :=
  match m with
  | [] => unlistedByte
  | c :: rest => if c.1 = a then c.2 else Memory.byteAt rest a

/-- The list with the byte `b` at `a`, put before the first larger address. -/
def Memory.insertByte (m : Memory) (a : Nat) (b : Byte) : Memory :=
  match m with
  | [] => [(a, b)]
  | c :: rest =>
    if a < c.1 then (a, b) :: c :: rest
    else if c.1 = a then (a, b) :: rest
    else c :: Memory.insertByte rest a b

/-- Write one byte (R65). Writing what an unlisted address reads as removes the entry. -/
def Memory.setByte (m : Memory) (a : Nat) (b : Byte) : Memory :=
  if b = unlistedByte then m.filter (fun c => c.1 != a) else m.insertByte a b

/-- The byte at a 32-bit address. -/
def Memory.byte (m : Memory) (a : Word) : Byte := m.byteAt a.toNat

/-- Write the byte at a 32-bit address. -/
def Memory.put (m : Memory) (a : Word) (b : Byte) : Memory := m.setByte a.toNat b

/-- The halfword whose bytes stand at `A`, `A+1` in that order (R62). -/
def halfOfBytes (e : Endian) (b0 b1 : Byte) : Half :=
  match e with
  | .big => b0 ++ b1
  | .little => b1 ++ b0

/-- Byte `k` of a halfword, counted from address `A` (R62). -/
def byteOfHalf (e : Endian) (v : Half) (k : Nat) : Byte :=
  match e with
  | .big => v.extractLsb' (8 - 8 * k) 8
  | .little => v.extractLsb' (8 * k) 8

/-- `MemRead(A, 2)` (R62). -/
def Memory.half (e : Endian) (m : Memory) (a : Word) : Half := halfOfBytes e (m.byte a) (m.byte (a + 1#32))

/-- `MemRead(A, 4)` (R62). -/
def Memory.word (e : Endian) (m : Memory) (a : Word) : Word :=
  wordOfBytes e (m.byte a) (m.byte (a + 1#32)) (m.byte (a + 2#32)) (m.byte (a + 3#32))

/-- Place a word in memory from outside the machine (the launch memory, D29). -/
def Memory.placeWord (e : Endian) (m : Memory) (a v : Word) : Memory :=
  (((m.put a (byteOfWord e v 0)).put (a + 1#32) (byteOfWord e v 1)).put (a + 2#32) (byteOfWord e v 2)).put
    (a + 3#32) (byteOfWord e v 3)

/-- A list of addresses with one more, kept strictly rising: the addresses stored to since launch (R74). -/
def insertAddress (l : List Nat) (a : Nat) : List Nat :=
  match l with
  | [] => [a]
  | x :: rest =>
    if a < x then a :: x :: rest
    else if x = a then x :: rest
    else x :: insertAddress rest a

/-- A 32-bit address noted as stored to. -/
def noteStored (l : List Nat) (a : Word) : List Nat := insertAddress l a.toNat

/-- The program has stored to the byte at a 32-bit address. -/
def isStored (l : List Nat) (a : Word) : Bool := l.contains a.toNat

/-- The list of addresses without the four of the word at `a`. -/
def forgetStored (l : List Nat) (a : Word) : List Nat :=
  l.filter (fun x => x != a.toNat && x != (a + 1#32).toNat && x != (a + 2#32).toNat && x != (a + 3#32).toNat)

/-- The addresses are strictly rising and below 2^32. -/
def addressesWf : List Nat → Bool
  | [] => true
  | x :: rest => decide (x < 2 ^ 32) && rest.all (fun y => decide (x < y)) && addressesWf rest

/-- The vector base after power-on reset (R69, R344). -/
def resetVectorBase : Word := 0x80000000#32

end Sys2Proof.Machine
end

