-- ==== Sys2Proof/Machine/State.lean ====
section
/-! DEFINITION. The state of the machine, why a step stops, and the state after power-on reset (10_state.md). -/

namespace Sys2Proof.Machine

open Sys2Proof

/-- One command sent by ITLB, DTLB, ICACHE or DCACHE (R42). -/
structure SentCommand where
  unit : CommandUnit
  cmd : BitVec 4
  address : Word
  deriving DecidableEq, Repr

/-- The whole state of the integer unit and of what the spec says it observes (R20, R44). -/
structure State where
  /-- R1 to R31; R0 is hard-wired and stored nowhere (R21). -/
  regs : Vector Word 31
  /-- The address of the instruction being executed (R24). -/
  pc : Word
  /-- The status register, control register 0 (R27). -/
  sr : Word
  /-- Saved SR for non-debug exceptions, control register 1 (R34). -/
  esr : Word
  /-- Saved PC for non-debug exceptions, control register 2 (R35). -/
  epc : Word
  /-- Saved SR for debug exceptions, control register 5 (R36). -/
  dsr : Word
  /-- Saved PC for debug exceptions, control register 6 (R37). -/
  dpc : Word
  /-- SLEEP has put the unit to sleep (R44, R289). -/
  sleeping : Bool
  /-- The levels of the interrupt request at the boundaries to come, the next one first; false after the last (R351). -/
  intRequests : List Bool
  /-- Memory (R60). -/
  mem : Memory
  /-- The addresses the program has stored to since launch, rising (R74). -/
  stored : List Nat
  /-- The uses CLD and CST have made of module control registers, the latest first (R42). -/
  moduleLog : List ModuleAccess
  /-- The commands sent to the TLBs and caches, the latest first (R42). -/
  commandLog : List SentCommand
  /-- The implementation parameters; no step changes them (R6). -/
  cfg : Config
  deriving DecidableEq, Repr

/-- Why the machine would stop with a fault. There is no way: every 32-bit address exists (R60), every exception the
spec describes is taken as a next state (60_exceptions.md R346), and what the spec gives no meaning is a refusal ("The
model is never stuck by the spec's rules", 93_implementation_defined.md part 2). Safe: nothing is hidden here. -/
inductive Fault where
  deriving DecidableEq, Repr

/-- Why a situation has no next state: the spec's `refuse` (R10). Each is safe: a refusal gives no next state, so no
claim about one can follow from it. -/
inductive Refusal where
  /-- Raised by an arm of `exec` that has no meaning yet. -/
  | notModelled (mnemonic : String)
  /-- Raised by MUL, always: "MUL has no description" (R185, D19). -/
  | mulNoDescription
  /-- Raised by MULU with Rh = Ra, not R0 (R184, D18). -/
  | muluSameDestination
  /-- Raised by a load, a store or SWAP on a misaligned address, where `MISALIGNED_DATA` is `refuse` (R64, D2). -/
  | misalignedAccess
  /-- Raised by the fetch when the low bits of the pc are not 0 and `MISALIGNED_PC` is `refuse` (R25, D3). -/
  | misalignedPc
  /-- Raised by the fetch of a byte the program has stored to, unless `IFETCH_COHERENT` (R74, D7). -/
  | fetchOfModifiedCode
  /-- Raised by the fetch of an instruction with a 1 in a field drawn as zero (R111, D11). -/
  | nonZeroMustBeZero
  /-- Raised by RCR and WCR in supervisor mode with an index that names no register (R290, D12). -/
  | undefinedControlRegister
  /-- Raised by CLD and CST with a register number above 511 (R293, R294). -/
  | moduleOperandOutOfRange
  /-- Raised by CLD and CST in user mode: their privilege is not stated (R293, D13). -/
  | modulePrivilegeNotStated
  /-- Raised by CLD and CST of a register the platform does not list (R293, R294, D13). -/
  | moduleRegisterAbsent
  /-- Raised by ITLB, DTLB, ICACHE, DCACHE with a command the platform does not define (R295 to R298, D14). -/
  | commandNotDefined (unit : CommandUnit)
  /-- Raised by SLEEP with `SR.IE = 0` (R289, D15). -/
  | sleepInterruptsDisabled
  /-- Raised by exception entry, power-on reset included, when the read of the vector entry faults (R356, R400, D23). -/
  | faultDuringExceptionEntry
  deriving DecidableEq, Repr

/-- What one instruction or one step ends in. -/
abbrev Result := Host.Outcome State Fault Refusal

/-- The state after power-on reset on an implementation `cfg` with the launch memory `mem` (R43, R400): the pc is the word
the reset vector entry holds; where the read of that entry faults, `powerOnReset` refuses and there is no such state.
ESR, EPC, DSR, DPC are "Undefined" in the spec: DESIGN CHOICE 0, unsafe (log 3). -/
def State.powerOn (cfg : Config) (mem : Memory) : State where
  regs := Vector.replicate 31 0#32
  pc := mem.word cfg.endian resetVectorBase
  sr := 0x00000008#32
  esr := 0#32
  epc := 0#32
  dsr := 0#32
  dpc := 0#32
  sleeping := false
  intRequests := []
  mem := mem
  stored := []
  moduleLog := []
  commandLog := []
  cfg := cfg

/-- The machine right after power-on reset with the spec's default parameters, under which no access faults
(R6), and no launch memory placed (log 18). -/
def State.reset : State := State.powerOn Config.default []

end Sys2Proof.Machine
end

