-- ==== Sys2Proof/Machine/Ops.lean ====
section
/-! DEFINITION. The named operations over registers, the status register and memory, exception entry and return. Every
meaning is written over these (00_scope.md R10). -/

namespace Sys2Proof.Machine

open Sys2Proof

/-! ## General registers and the program counter -/

/-- `x[r]`: R0 reads as zero (R21). -/
def State.reg (s : State) (r : Reg) : Word :=
  if r = 0#5 then 0#32 else s.regs[r.toNat - 1]'(by have := r.isLt; omega)

/-- `x[r] <- v`: a write to R0 is discarded (R21). -/
def State.setReg (s : State) (r : Reg) (v : Word) : State :=
  if r = 0#5 then s else { s with regs := s.regs.set (r.toNat - 1) v (by have := r.isLt; omega) }

/-- `pc <- t` (R10). -/
def State.jump (s : State) (t : Word) : State := { s with pc := t }

/-- The instruction at `pc + 4` is next (R25), modulo 2^32 (D4). -/
def State.advance (s : State) : State := s.jump (s.pc + 4#32)

/-! ## The status register (R27 to R33) -/

/-- `SR.IE`, bit 0 (R28). -/
def srIE : Word := 0x01#32
/-- `SR.DE`, bit 1 (R29). -/
def srDE : Word := 0x02#32
/-- `SR.DS`, bit 2 (R30). -/
def srDS : Word := 0x04#32
/-- `SR.SM`, bit 3 (R31). -/
def srSM : Word := 0x08#32
/-- `SR.VB`, bits 6:4 (R32). -/
def srVB : Word := 0x70#32
/-- The bits that are storage, 6:0; bits 31:7 are always read as 0 and writes to them are ignored (R33). -/
def srStorage : Word := 0x7F#32
/-- The bits WCR writes: VB, DS, DE and IE; SM and the reserved bits ignore it (R27, R31, R292). -/
def srWritable : Word := 0x77#32

/-- SR as it reads: bits 31:7 are 0 (R33). -/
def State.readSr (s : State) : Word := s.sr &&& srStorage

/-- SR written as a whole, SM included: exception entry and RTE (R31, R33). -/
def State.writeSr (s : State) (v : Word) : State := { s with sr := v &&& srStorage }

/-- `SR.IE = 1` (R28). -/
def State.ie (s : State) : Bool := s.readSr &&& srIE != 0#32
/-- `SR.DE = 1` (R29). -/
def State.de (s : State) : Bool := s.readSr &&& srDE != 0#32
/-- `SR.DS = 1` (R30). -/
def State.ds (s : State) : Bool := s.readSr &&& srDS != 0#32
/-- The processor mode, `SR.SM` (R31, R358). -/
def State.mode (s : State) : Mode := if s.readSr &&& srSM != 0#32 then .supervisor else .user
/-- `SR.VB` (R32). -/
def State.vb (s : State) : BitVec 3 := s.readSr.extractLsb' 4 3

/-! ## Memory access (R62, R64, R67) -/

/-- The number of bytes of an access (R65). -/
def AccessSize.bytes : AccessSize → Nat
  | .byte => 1
  | .half => 2
  | .word => 4

/-- The address satisfies the alignment rule of the size (R64). -/
def isAligned (a : Word) : AccessSize → Bool
  | .byte => true
  | .half => a &&& 1#32 == 0#32
  | .word => a &&& 3#32 == 0#32

/-- One line of the platform predicate names this access (R67). -/
def ruleMatches (r : AccessRule) (kind : AccessKind) (a : Word) (size : AccessSize) (mode : Mode) : Bool :=
  r.kind == kind && decide (r.first.toNat ≤ a.toNat) && decide (a.toNat ≤ r.last.toNat)
    && (r.size == none || r.size == some size) && (r.mode == none || r.mode == some mode)

/-- `AccessFault(kind, addr, size, mode)` (R6, R67). -/
def accessFault (cfg : Config) (kind : AccessKind) (a : Word) (size : AccessSize) (mode : Mode) : Bool :=
  cfg.accessRules.any (fun r => ruleMatches r kind a size mode)

/-- The byte at an address. -/
def State.byteAt (s : State) (a : Word) : Byte := s.mem.byte a

/-- The halfword at an address, in the configured byte order (R62). -/
def State.halfAt (s : State) (a : Word) : Half := s.mem.half s.cfg.endian a

/-- The word at an address, in the configured byte order (R62). -/
def State.wordAt (s : State) (a : Word) : Word := s.mem.word s.cfg.endian a

/-- Store one byte, and note its address as stored to (R65, R74). -/
def State.storeByte (s : State) (a : Word) (b : Byte) : State :=
  { s with mem := s.mem.put a b, stored := noteStored s.stored a }

/-- Store a halfword in the configured byte order (R62, R65). -/
def State.storeHalf (s : State) (a : Word) (v : Half) : State :=
  (s.storeByte a (byteOfHalf s.cfg.endian v 0)).storeByte (a + 1#32) (byteOfHalf s.cfg.endian v 1)

/-- Store a word in the configured byte order (R62, R65). -/
def State.storeWord (s : State) (a : Word) (v : Word) : State :=
  (((s.storeByte a (byteOfWord s.cfg.endian v 0)).storeByte (a + 1#32) (byteOfWord s.cfg.endian v 1)).storeByte
    (a + 2#32) (byteOfWord s.cfg.endian v 2)).storeByte (a + 3#32) (byteOfWord s.cfg.endian v 3)

/-! ## Exceptions (60_exceptions.md) -/

/-- The events of R340. -/
inductive Exc where
  | powerOnReset
  | manualReset
  | dboot
  | dfault
  | ifault
  | illins
  | trap
  | ibrk
  | dbrk
  | sbrk
  | int
  deriving DecidableEq, Repr

/-- The debug class saves into DSR and DPC (R340, R345). -/
def Exc.isDebug : Exc → Bool
  | .dboot | .ibrk | .dbrk | .sbrk => true
  | .powerOnReset | .manualReset | .dfault | .ifault | .illins | .trap | .int => false

/-- The vector number (R343, Table 2-4). -/
def Exc.vector : Exc → Nat
  | .powerOnReset | .manualReset | .dboot => 0
  | .illins => 1
  | .ibrk | .dbrk | .sbrk => 2
  | .int => 4
  | .trap => 5
  | .dfault | .ifault => 6

/-- The offset of the vector entry: four bytes an entry (R343, Table 2-4). -/
def Exc.offset (e : Exc) : Word := BitVec.ofNat 32 (4 * e.vector)

/-- The priority, 0 the highest (R342, Table 2-3). The step's order of stages realises it: no two of the events the
model raises arise at once (D30). -/
def Exc.priority : Exc → Nat
  | .dboot => 0
  | .powerOnReset | .manualReset => 1
  | .dfault => 2
  | .dbrk => 3
  | .illins => 4
  | .trap | .sbrk => 5
  | .ibrk => 6
  | .ifault => 7
  | .int => 8

/-- `vbase` (R32, R344). -/
def State.vectorBase (s : State) (e : Exc) : Word :=
  if s.cfg.hostMode || e == .dboot then 0xEC000000#32
  else resetVectorBase ||| (zext32 s.vb <<< 26)

/-- SR as exception entry leaves it, from SR as it was (R346): IE and DS cleared and SM set, or, for the debug class, IE
and DE cleared and DS and SM set. -/
def srAfterEntry (e : Exc) (old : Word) : Word :=
  if e.isDebug then (old &&& ~~~(srIE ||| srDE)) ||| (srDS ||| srSM)
  else (old &&& ~~~(srIE ||| srDS)) ||| srSM

/-- The save pair and SR at exception entry (R345, R346): SR and the return address `ret` go to DSR and DPC, or to ESR
and EPC. -/
def State.saveContext (s : State) (e : Exc) (ret : Word) : State :=
  let saved := if e.isDebug then { s with dsr := s.readSr, dpc := ret } else { s with esr := s.readSr, epc := ret }
  saved.writeSr (srAfterEntry e s.readSr)

/-- Exception entry (R346): save, change SR, and go to the address the vector entry holds. The entry is read as a word,
in supervisor mode (R343, D24); a fault of that read is refused (R356, D23). -/
def enter (e : Exc) (ret : Word) (s : State) : Result :=
  let entry := s.vectorBase e + e.offset
  if accessFault s.cfg .load entry .word .supervisor then .refused .faultDuringExceptionEntry
  else .next ((s.saveContext e ret).jump (s.wordAt entry))

/-- Power-on reset as an exception through vector 0 (R354, R400): its entry, at H'80000000, is read as the entry of every
other exception is, as a word in supervisor mode (R343, D24), and a fault of that read is refused (R356, D23); else the
machine is in the state of R43. -/
def powerOnReset (cfg : Config) (mem : Memory) : Result :=
  if accessFault cfg .load resetVectorBase .word .supervisor then .refused .faultDuringExceptionEntry
  else .next (State.powerOn cfg mem)

/-- RTE's effect (R288, R355): SR and PC from the pair that `SR.DS` names; SR takes bits 6:0 only. -/
def State.returnFromException (s : State) : State :=
  if s.ds then (s.writeSr s.dsr).jump s.dpc else (s.writeSr s.esr).jump s.epc

/-- A privilege instruction: in user mode it raises ILLINS at its own address and does nothing else (R285, D28). -/
def supervisorOnly (s : State) (go : Result) : Result :=
  match s.mode with
  | .user => enter .illins s.pc s
  | .supervisor => go

/-! ## Shapes shared by many instructions -/

/-- `x[r] <- v`, then the next instruction. -/
def writeAndAdvance (s : State) (r : Reg) (v : Word) : Result := .next (s.setReg r v).advance

/-- A checked data access (R64, R67): misaligned, it is refused or raises DFAULT by the parameter; where `AccessFault`
holds it raises DFAULT with the address of the instruction; else `go`. -/
def withAccess (s : State) (kind : AccessKind) (a : Word) (size : AccessSize) (go : Result) : Result :=
  if isAligned a size then
    if accessFault s.cfg kind a size s.mode then enter .dfault s.pc s else go
  else
    match s.cfg.misalignedData with
    | .refuse => .refused .misalignedAccess
    | .dfault => enter .dfault s.pc s

/-- The common load procedure (R233): `v` is the extended datum at `a`. -/
def loadInto (s : State) (r : Reg) (a : Word) (size : AccessSize) (v : Word) : Result :=
  withAccess s .load a size (writeAndAdvance s r v)

/-- The common store procedure (R234): `t` is the state with the datum stored at `a`. -/
def storeTo (s : State) (a : Word) (size : AccessSize) (t : State) : Result :=
  withAccess s .store a size (.next t.advance)

/-- Go to `target` if the condition holds, else to the following instruction (R157, R164). -/
def branchIf (s : State) (c : Bool) (s10 : BitVec 10) : Result :=
  .next (s.jump (if c then branchTarget s.pc s10 else s.pc + 4#32))

/-! ## Control registers (R26, R290) -/

/-- The control register of an index, if it names one. -/
def State.readCr (s : State) (cr : BitVec 5) : Option Word :=
  match cr with
  | 0#5 => some s.readSr
  | 1#5 => some s.esr
  | 2#5 => some s.epc
  | 5#5 => some s.dsr
  | 6#5 => some s.dpc
  | _ => none

/-- The state with a control register written, if the index names one (R292): SR takes VB, DS, DE and IE only. -/
def State.writeCr (s : State) (cr : BitVec 5) (v : Word) : Option State :=
  match cr with
  | 0#5 => some (s.writeSr ((s.readSr &&& ~~~srWritable) ||| (v &&& srWritable)))
  | 1#5 => some { s with esr := v }
  | 2#5 => some { s with epc := v }
  | 5#5 => some { s with dsr := v }
  | 6#5 => some { s with dpc := v }
  | _ => none

/-! ## Module control registers and unit commands (R42) -/

/-- The platform answers for this module control register (R6, R293). -/
def hasModuleRegister (cfg : Config) (id : BitVec 3) (number : BitVec 9) : Bool :=
  cfg.moduleRegs.contains (id, number)

/-- The checks CLD and CST share, in the spec's order (R293, R294): the number, the mode, the platform. -/
def withModuleRegister (s : State) (id : BitVec 3) (number : BitVec 10) (go : BitVec 9 → Result) : Result :=
  if number.toNat ≤ 511 then
    match s.mode with
    | .user => .refused .modulePrivilegeNotStated
    | .supervisor =>
      let n := number.setWidth 9
      if hasModuleRegister s.cfg id n then go n else .refused .moduleRegisterAbsent
  else .refused .moduleOperandOutOfRange

/-- What the platform defines of a command (R6, R295 to R298). -/
def findCommand (cfg : Config) (u : CommandUnit) (cmd : BitVec 4) : Option CommandDef :=
  cfg.commands.find? (fun d => d.unit == u && d.cmd == cmd)

/-- A command leaves the integer unit: nothing comes back and no register or memory is written (R42, R295). -/
def State.send (s : State) (u : CommandUnit) (cmd : BitVec 4) (a : Word) : State :=
  { s with commandLog := ⟨u, cmd, a⟩ :: s.commandLog }

/-- A TLB command (R295, R296): privileged; the platform must define it. -/
def sendTlbCommand (s : State) (u : CommandUnit) (cmd : BitVec 4) (a : Word) : Result :=
  supervisorOnly s
    (match findCommand s.cfg u cmd with
     | none => .refused (.commandNotDefined u)
     | some _ => .next (s.send u cmd a).advance)

/-- A cache command (R297, R298): the platform must define it, and says whether it is a privileged one. -/
def sendCacheCommand (s : State) (u : CommandUnit) (cmd : BitVec 4) (a : Word) : Result :=
  match findCommand s.cfg u cmd with
  | none => .refused (.commandNotDefined u)
  | some d => if d.privileged then supervisorOnly s (.next (s.send u cmd a).advance) else .next (s.send u cmd a).advance

end Sys2Proof.Machine
end

