-- ==== Sys2Proof/Machine/Arithmetic.lean ====
section
/-! DEFINITION. Arithmetic and comparison (43_arithmetic_compare.md). -/

namespace Sys2Proof.Machine

open Sys2Proof

/-- ADD (R181), modulo 2^32. -/
def execAdd (ra rb rc : Reg) (s : State) : Result :=
  writeAndAdvance s ra (s.reg rb + s.reg rc)

/-- ADDI (R182). -/
def execAddi (ra rb : Reg) (i10 : BitVec 10) (s : State) : Result :=
  writeAndAdvance s ra (s.reg rb + sext32 i10)

/-- SUB (R183). -/
def execSub (ra rb rc : Reg) (s : State) : Result :=
  writeAndAdvance s ra (s.reg rb - s.reg rc)

/-- MULU (R184): the exact unsigned product, high word to `rh` and low word to `ra`, both sources read first. With
`rh = ra`, not R0, the spec gives it no meaning (D18; log 11). -/
def execMulu (rh ra rb rc : Reg) (s : State) : Result :=
  if destinationsDiffer rh ra then
    let p := unsignedProduct (s.reg rb) (s.reg rc)
    writeAndAdvance (s.setReg rh (highWord p)) ra (lowWord p)
  else .refused .muluSameDestination

/-- MUL (R185): "gives it no semantics: executing it is `refuse`" (D19; log 12). -/
def execMul (_s : State) : Result :=
  .refused .mulNoDescription

/-- SEQ (R187): 1 if `x[b] == x[c]`, else 0. -/
def execSeq (ra rb rc : Reg) (s : State) : Result :=
  writeAndAdvance s ra (boolWord (condEq (s.reg rb) (s.reg rc)))

/-- SNE (R188): 1 if `x[b] != x[c]`, else 0. -/
def execSne (ra rb rc : Reg) (s : State) : Result :=
  writeAndAdvance s ra (boolWord (condNe (s.reg rb) (s.reg rc)))

/-- SLT (R189): 1 if `x[b] <s x[c]`, else 0. -/
def execSlt (ra rb rc : Reg) (s : State) : Result :=
  writeAndAdvance s ra (boolWord (condLt (s.reg rb) (s.reg rc)))

/-- SGE (R190): 1 if `x[b] >=s x[c]`, else 0. -/
def execSge (ra rb rc : Reg) (s : State) : Result :=
  writeAndAdvance s ra (boolWord (condGe (s.reg rb) (s.reg rc)))

/-- SLTU (R191): 1 if `x[b] <u x[c]`, else 0. -/
def execSltu (ra rb rc : Reg) (s : State) : Result :=
  writeAndAdvance s ra (boolWord (condLtu (s.reg rb) (s.reg rc)))

/-- SGEU (R192): 1 if `x[b] >=u x[c]`, else 0. -/
def execSgeu (ra rb rc : Reg) (s : State) : Result :=
  writeAndAdvance s ra (boolWord (condGeu (s.reg rb) (s.reg rc)))

end Sys2Proof.Machine
end

