-- ==== Sys2Proof/Machine/Bitwise.lean ====
section
/-! DEFINITION. Bitwise instructions (44_bitwise.md). -/

namespace Sys2Proof.Machine

open Sys2Proof

/-- AND (R201). -/
def execAnd (ra rb rc : Reg) (s : State) : Result :=
  writeAndAdvance s ra (s.reg rb &&& s.reg rc)

/-- OR (R202). -/
def execOr (ra rb rc : Reg) (s : State) : Result :=
  writeAndAdvance s ra (s.reg rb ||| s.reg rc)

/-- XOR (R203). -/
def execXor (ra rb rc : Reg) (s : State) : Result :=
  writeAndAdvance s ra (s.reg rb ^^^ s.reg rc)

/-- ANDN (R204). -/
def execAndn (ra rb rc : Reg) (s : State) : Result :=
  writeAndAdvance s ra (s.reg rb &&& ~~~(s.reg rc))

/-- ANDI (R205): the immediate is sign-extended. -/
def execAndi (ra rb : Reg) (s16 : BitVec 16) (s : State) : Result :=
  writeAndAdvance s ra (s.reg rb &&& sext32 s16)

/-- ORI (R206): the immediate is sign-extended. -/
def execOri (ra rb : Reg) (s16 : BitVec 16) (s : State) : Result :=
  writeAndAdvance s ra (s.reg rb ||| sext32 s16)

/-- XORI (R207): the immediate is sign-extended. -/
def execXori (ra rb : Reg) (s16 : BitVec 16) (s : State) : Result :=
  writeAndAdvance s ra (s.reg rb ^^^ sext32 s16)

end Sys2Proof.Machine
end

