-- ==== Sys2Proof/Machine/Branch.lean ====
section
/-! DEFINITION. The branches (42_branch.md). No branch writes a register. -/

namespace Sys2Proof.Machine

open Sys2Proof

/-- BEQ (R158): taken if `x[b] == x[a]`. -/
def execBeq (rb ra : Reg) (s10 : BitVec 10) (s : State) : Result :=
  branchIf s (condEq (s.reg rb) (s.reg ra)) s10

/-- BNE (R159): taken if `x[b] != x[a]`. -/
def execBne (rb ra : Reg) (s10 : BitVec 10) (s : State) : Result :=
  branchIf s (condNe (s.reg rb) (s.reg ra)) s10

/-- BLT (R160): taken if `x[b] <s x[a]`. -/
def execBlt (rb ra : Reg) (s10 : BitVec 10) (s : State) : Result :=
  branchIf s (condLt (s.reg rb) (s.reg ra)) s10

/-- BGE (R161): taken if `x[b] >=s x[a]`. -/
def execBge (rb ra : Reg) (s10 : BitVec 10) (s : State) : Result :=
  branchIf s (condGe (s.reg rb) (s.reg ra)) s10

/-- BLTU (R162): taken if `x[b] <u x[a]`. -/
def execBltu (rb ra : Reg) (s10 : BitVec 10) (s : State) : Result :=
  branchIf s (condLtu (s.reg rb) (s.reg ra)) s10

/-- BGEU (R163): taken if `x[b] >=u x[a]`. -/
def execBgeu (rb ra : Reg) (s10 : BitVec 10) (s : State) : Result :=
  branchIf s (condGeu (s.reg rb) (s.reg ra)) s10

/-- BEQI (R165): taken if `x[b] == sext_32(imm5)`. -/
def execBeqi (rb : Reg) (imm5 : BitVec 5) (s10 : BitVec 10) (s : State) : Result :=
  branchIf s (condEq (s.reg rb) (sext32 imm5)) s10

/-- BNEI (R166): taken if `x[b] != sext_32(imm5)`. -/
def execBnei (rb : Reg) (imm5 : BitVec 5) (s10 : BitVec 10) (s : State) : Result :=
  branchIf s (condNe (s.reg rb) (sext32 imm5)) s10

/-- BLTI (R167): taken if `x[b] <s sext_32(imm5)`. -/
def execBlti (rb : Reg) (imm5 : BitVec 5) (s10 : BitVec 10) (s : State) : Result :=
  branchIf s (condLt (s.reg rb) (sext32 imm5)) s10

/-- BGEI (R168): taken if `x[b] >=s sext_32(imm5)`. -/
def execBgei (rb : Reg) (imm5 : BitVec 5) (s10 : BitVec 10) (s : State) : Result :=
  branchIf s (condGe (s.reg rb) (sext32 imm5)) s10

/-- BEQUI (R169): taken if `x[b] == zext_32(imm5)`. -/
def execBequi (rb : Reg) (imm5 : BitVec 5) (s10 : BitVec 10) (s : State) : Result :=
  branchIf s (condEq (s.reg rb) (zext32 imm5)) s10

/-- BNEUI (R170): taken if `x[b] != zext_32(imm5)`. -/
def execBneui (rb : Reg) (imm5 : BitVec 5) (s10 : BitVec 10) (s : State) : Result :=
  branchIf s (condNe (s.reg rb) (zext32 imm5)) s10

/-- BLTUI (R171): taken if `x[b] <u zext_32(imm5)`. -/
def execBltui (rb : Reg) (imm5 : BitVec 5) (s10 : BitVec 10) (s : State) : Result :=
  branchIf s (condLtu (s.reg rb) (zext32 imm5)) s10

/-- BGEUI (R172): taken if `x[b] >=u zext_32(imm5)`. -/
def execBgeui (rb : Reg) (imm5 : BitVec 5) (s10 : BitVec 10) (s : State) : Result :=
  branchIf s (condGeu (s.reg rb) (zext32 imm5)) s10

end Sys2Proof.Machine
end

