-- ==== Sys2Proof/Machine/Immediate.lean ====
section
/-! DEFINITION. The immediate load (40_immediate_load.md). -/

namespace Sys2Proof.Machine

open Sys2Proof

/-- LHI (R141): `x[a] <- zext_32(i21) << 11`. -/
def execLhi (ra : Reg) (i21 : BitVec 21) (s : State) : Result :=
  writeAndAdvance s ra (lhiValue i21)

end Sys2Proof.Machine
end

