-- ==== Sys2Proof/Machine/Jump.lean ====
section
/-! DEFINITION. The jumps (41_jump.md). Both link: `pc + 4` goes to `ra`. -/

namespace Sys2Proof.Machine

open Sys2Proof

/-- J (R146): relative to the following instruction. -/
def execJ (ra : Reg) (i21 : BitVec 21) (s : State) : Result :=
  .next ((s.setReg ra (s.pc + 4#32)).jump (jumpTarget s.pc i21))

/-- JA (R147): the target is made from the old `rb`, then the link is written. -/
def execJa (ra rb : Reg) (i10 : BitVec 10) (s : State) : Result :=
  .next ((s.setReg ra (s.pc + 4#32)).jump (absoluteTarget (s.reg rb) i10))

end Sys2Proof.Machine
end

