-- ==== Sys2Proof/Machine/LoadStore.lean ====
section
/-! DEFINITION. Loads and stores (46_load_store.md), over the common procedures of R233 and R234. -/

namespace Sys2Proof.Machine

open Sys2Proof

/-- LR8 (R236): a byte, sign-extended. -/
def execLr8 (ra rb rc : Reg) (s : State) : Result :=
  let a := addrRR (s.reg rb) (s.reg rc)
  loadInto s ra a .byte (sext32 (s.byteAt a))

/-- LR8U (R237): a byte, zero-extended. -/
def execLr8u (ra rb rc : Reg) (s : State) : Result :=
  let a := addrRR (s.reg rb) (s.reg rc)
  loadInto s ra a .byte (zext32 (s.byteAt a))

/-- LR16 (R238): a halfword, sign-extended. -/
def execLr16 (ra rb rc : Reg) (s : State) : Result :=
  let a := addrRR (s.reg rb) (s.reg rc)
  loadInto s ra a .half (sext32 (s.halfAt a))

/-- LR16U (R239): a halfword, zero-extended. -/
def execLr16u (ra rb rc : Reg) (s : State) : Result :=
  let a := addrRR (s.reg rb) (s.reg rc)
  loadInto s ra a .half (zext32 (s.halfAt a))

/-- LR32 (R240): a word. -/
def execLr32 (ra rb rc : Reg) (s : State) : Result :=
  let a := addrRR (s.reg rb) (s.reg rc)
  loadInto s ra a .word (s.wordAt a)

/-- LX16 (R241): a halfword, sign-extended. -/
def execLx16 (ra rb rc : Reg) (s : State) : Result :=
  let a := addrRX2 (s.reg rb) (s.reg rc)
  loadInto s ra a .half (sext32 (s.halfAt a))

/-- LX16U (R242): a halfword, zero-extended. -/
def execLx16u (ra rb rc : Reg) (s : State) : Result :=
  let a := addrRX2 (s.reg rb) (s.reg rc)
  loadInto s ra a .half (zext32 (s.halfAt a))

/-- LX32 (R243): a word. -/
def execLx32 (ra rb rc : Reg) (s : State) : Result :=
  let a := addrRX4 (s.reg rb) (s.reg rc)
  loadInto s ra a .word (s.wordAt a)

/-- LD8 (R244): a byte, sign-extended. -/
def execLd8 (ra rb : Reg) (i10 : BitVec 10) (s : State) : Result :=
  let a := addrDisp1 (s.reg rb) i10
  loadInto s ra a .byte (sext32 (s.byteAt a))

/-- LD8U (R245): a byte, zero-extended. -/
def execLd8u (ra rb : Reg) (i10 : BitVec 10) (s : State) : Result :=
  let a := addrDisp1 (s.reg rb) i10
  loadInto s ra a .byte (zext32 (s.byteAt a))

/-- LD16 (R246): a halfword, sign-extended. -/
def execLd16 (ra rb : Reg) (i10 : BitVec 10) (s : State) : Result :=
  let a := addrDisp2 (s.reg rb) i10
  loadInto s ra a .half (sext32 (s.halfAt a))

/-- LD16U (R247): a halfword, zero-extended. -/
def execLd16u (ra rb : Reg) (i10 : BitVec 10) (s : State) : Result :=
  let a := addrDisp2 (s.reg rb) i10
  loadInto s ra a .half (zext32 (s.halfAt a))

/-- LD32 (R248): a word. -/
def execLd32 (ra rb : Reg) (i10 : BitVec 10) (s : State) : Result :=
  let a := addrDisp4 (s.reg rb) i10
  loadInto s ra a .word (s.wordAt a)

/-- SR8 (R249): stores the low byte of `ra`. -/
def execSr8 (ra rb rc : Reg) (s : State) : Result :=
  let a := addrRR (s.reg rb) (s.reg rc)
  storeTo s a .byte (s.storeByte a ((s.reg ra).setWidth 8))

/-- SR16 (R250): stores the low halfword of `ra`. -/
def execSr16 (ra rb rc : Reg) (s : State) : Result :=
  let a := addrRR (s.reg rb) (s.reg rc)
  storeTo s a .half (s.storeHalf a ((s.reg ra).setWidth 16))

/-- SR32 (R251): stores `ra`. -/
def execSr32 (ra rb rc : Reg) (s : State) : Result :=
  let a := addrRR (s.reg rb) (s.reg rc)
  storeTo s a .word (s.storeWord a (s.reg ra))

/-- SX16 (R252): stores the low halfword of `ra`. -/
def execSx16 (ra rb rc : Reg) (s : State) : Result :=
  let a := addrRX2 (s.reg rb) (s.reg rc)
  storeTo s a .half (s.storeHalf a ((s.reg ra).setWidth 16))

/-- SX32 (R253): stores `ra`. -/
def execSx32 (ra rb rc : Reg) (s : State) : Result :=
  let a := addrRX4 (s.reg rb) (s.reg rc)
  storeTo s a .word (s.storeWord a (s.reg ra))

/-- SD8 (R254): stores the low byte of `ra`. -/
def execSd8 (ra rb : Reg) (i10 : BitVec 10) (s : State) : Result :=
  let a := addrDisp1 (s.reg rb) i10
  storeTo s a .byte (s.storeByte a ((s.reg ra).setWidth 8))

/-- SD16 (R255): stores the low halfword of `ra`. -/
def execSd16 (ra rb : Reg) (i10 : BitVec 10) (s : State) : Result :=
  let a := addrDisp2 (s.reg rb) i10
  storeTo s a .half (s.storeHalf a ((s.reg ra).setWidth 16))

/-- SD32 (R256): stores `ra`. -/
def execSd32 (ra rb : Reg) (i10 : BitVec 10) (s : State) : Result :=
  let a := addrDisp4 (s.reg rb) i10
  storeTo s a .word (s.storeWord a (s.reg ra))

end Sys2Proof.Machine
end

