-- ==== Sys2Proof/Machine/Misc.lean ====
section
/-! DEFINITION. Miscellaneous instructions (47_misc.md). -/

namespace Sys2Proof.Machine

open Sys2Proof

/-- MVZ (R271): `ra` takes `rc` if `rb` is zero, and keeps its value otherwise. -/
def execMvz (ra rb rc : Reg) (s : State) : Result :=
  writeAndAdvance s ra (if s.reg rb = 0#32 then s.reg rc else s.reg ra)

/-- MVNZ (R275): `ra` takes `rc` if `rb` is not zero, and keeps its value otherwise. -/
def execMvnz (ra rb rc : Reg) (s : State) : Result :=
  writeAndAdvance s ra (if s.reg rb ≠ 0#32 then s.reg rc else s.reg ra)

/-- CSB (R272): the number of sign bits less one, 0 to 31. -/
def execCsb (ra rb : Reg) (s : State) : Result :=
  writeAndAdvance s ra (signBitCount (s.reg rb))

/-- BREV (R273). -/
def execBrev (ra rb : Reg) (s : State) : Result :=
  writeAndAdvance s ra (byteReverse (s.reg rb))

/-- SWAP (R274): the word read goes to `ra`, the old `ra` to memory; if either access faults nothing is written (D9). -/
def execSwap (ra rb : Reg) (i10 : BitVec 10) (s : State) : Result :=
  let a := addrDisp4 (s.reg rb) i10
  withAccess s .load a .word (withAccess s .store a .word (writeAndAdvance (s.storeWord a (s.reg ra)) ra (s.wordAt a)))

end Sys2Proof.Machine
end

