-- ==== Sys2Proof/Machine/Shift.lean ====
section
/-! DEFINITION. Shifts (45_shift.md). -/

namespace Sys2Proof.Machine

open Sys2Proof

/-- SLL (R217): by the low 5 bits of `rc` (R216). -/
def execSll (ra rb rc : Reg) (s : State) : Result :=
  writeAndAdvance s ra (shiftLeft (s.reg rb) (shiftAmount (s.reg rc)))

/-- SLR (R218): by the low 5 bits of `rc` (R216). -/
def execSlr (ra rb rc : Reg) (s : State) : Result :=
  writeAndAdvance s ra (shiftRightLogical (s.reg rb) (shiftAmount (s.reg rc)))

/-- SAR (R219): by the low 5 bits of `rc` (R216). -/
def execSar (ra rb rc : Reg) (s : State) : Result :=
  writeAndAdvance s ra (shiftRightArithmetic (s.reg rb) (shiftAmount (s.reg rc)))

/-- SLLI (R220): by the unsigned immediate (R216). -/
def execSlli (ra rb : Reg) (u5 : BitVec 5) (s : State) : Result :=
  writeAndAdvance s ra (shiftLeft (s.reg rb) u5.toNat)

/-- SLRI (R221): by the unsigned immediate (R216). -/
def execSlri (ra rb : Reg) (u5 : BitVec 5) (s : State) : Result :=
  writeAndAdvance s ra (shiftRightLogical (s.reg rb) u5.toNat)

/-- SARI (R222): by the unsigned immediate (R216). -/
def execSari (ra rb : Reg) (u5 : BitVec 5) (s : State) : Result :=
  writeAndAdvance s ra (shiftRightArithmetic (s.reg rb) u5.toNat)

end Sys2Proof.Machine
end

