-- ==== Sys2Proof/Machine/System.lean ====
section
/-! DEFINITION. System control (48_system.md). -/

namespace Sys2Proof.Machine

open Sys2Proof

/-- TRAP (R286): the sign-extended number goes to `ra`, then the entry with the following address; in either mode. -/
def execTrap (ra : Reg) (s10 : BitVec 10) (s : State) : Result :=
  enter .trap (s.pc + 4#32) (s.setReg ra (sext32 s10))

/-- SBRK (R287): a debug exception that saves the following address if `SR.DE = 1`, else ILLINS at its own address. -/
def execSbrk (s : State) : Result :=
  if s.de then enter .sbrk (s.pc + 4#32) s else enter .illins s.pc s

/-- RTE (R288): privileged. -/
def execRte (s : State) : Result :=
  supervisorOnly s (.next s.returnFromException)

/-- SLEEP (R289): privileged. The unit sleeps until an interrupt (D15); with `SR.IE = 0` the spec gives it no meaning. In
an implementation whose SLEEP is the pause mode it is a no-op of this untimed model (log 15). -/
def execSleep (s : State) : Result :=
  supervisorOnly s
    (if s.cfg.sleepPause then .next s.advance
     else if s.ie then .next { s.advance with sleeping := true }
     else .refused .sleepInterruptsDisabled)

/-- RCR (R291): privileged; the privilege check comes before the index (R285). -/
def execRcr (ra : Reg) (cr : BitVec 5) (s : State) : Result :=
  supervisorOnly s
    (match s.readCr cr with
     | some v => writeAndAdvance s ra v
     | none => .refused .undefinedControlRegister)

/-- WCR (R292): privileged; `ra` is the source. -/
def execWcr (ra : Reg) (cr : BitVec 5) (s : State) : Result :=
  supervisorOnly s
    (match s.writeCr cr (s.reg ra) with
     | some t => .next t.advance
     | none => .refused .undefinedControlRegister)

/-- CLD (R293): the value is the platform's answer, a FREE VALUE (log 5). -/
def execCld (ra : Reg) (id : BitVec 3) (number : BitVec 10) (s : State) : Result :=
  withModuleRegister s id number (fun n =>
    writeAndAdvance { s with moduleLog := .read id n :: s.moduleLog } ra (Config.moduleRead s.moduleLog id n))

/-- CST (R294): the platform takes the value; no general or control register changes (log 5). -/
def execCst (ra : Reg) (id : BitVec 3) (number : BitVec 10) (s : State) : Result :=
  withModuleRegister s id number (fun n =>
    .next { s.advance with moduleLog := .write id n (s.reg ra) :: s.moduleLog })

/-- ITLB (R295): privileged. -/
def execItlb (cmd : BitVec 4) (rb : Reg) (s : State) : Result :=
  sendTlbCommand s .itlb cmd (s.reg rb)

/-- DTLB (R296): privileged. -/
def execDtlb (cmd : BitVec 4) (rb : Reg) (s : State) : Result :=
  sendTlbCommand s .dtlb cmd (s.reg rb)

/-- ICACHE (R297): privileged for some commands. -/
def execIcache (cmd : BitVec 4) (rb : Reg) (s10 : BitVec 10) (s : State) : Result :=
  sendCacheCommand s .icache cmd (addrDisp4 (s.reg rb) s10)

/-- DCACHE (R298): privileged for some commands. -/
def execDcache (cmd : BitVec 4) (rb : Reg) (s10 : BitVec 10) (s : State) : Result :=
  sendCacheCommand s .dcache cmd (addrDisp4 (s.reg rb) s10)

end Sys2Proof.Machine
end

