-- ==== Sys2Proof/Machine/Dispatch.lean ====
section
/-! DEFINITION. One arm per instruction: the meaning of each (spec/opcode_table.json, in its order). -/

namespace Sys2Proof.Machine

open Sys2Proof

def exec (i : Instr) (s : State) : Host.Outcome State Fault Refusal :=
  match i with
  | .lhi ra i21 => Sys2Proof.Machine.execLhi ra i21 s
  | .j ra i21 => Sys2Proof.Machine.execJ ra i21 s
  | .ja ra rb i10 => Sys2Proof.Machine.execJa ra rb i10 s
  | .beq rb ra s10 => Sys2Proof.Machine.execBeq rb ra s10 s
  | .bne rb ra s10 => Sys2Proof.Machine.execBne rb ra s10 s
  | .blt rb ra s10 => Sys2Proof.Machine.execBlt rb ra s10 s
  | .bge rb ra s10 => Sys2Proof.Machine.execBge rb ra s10 s
  | .bltu rb ra s10 => Sys2Proof.Machine.execBltu rb ra s10 s
  | .bgeu rb ra s10 => Sys2Proof.Machine.execBgeu rb ra s10 s
  | .beqi rb imm5 s10 => Sys2Proof.Machine.execBeqi rb imm5 s10 s
  | .bnei rb imm5 s10 => Sys2Proof.Machine.execBnei rb imm5 s10 s
  | .blti rb imm5 s10 => Sys2Proof.Machine.execBlti rb imm5 s10 s
  | .bgei rb imm5 s10 => Sys2Proof.Machine.execBgei rb imm5 s10 s
  | .bequi rb imm5 s10 => Sys2Proof.Machine.execBequi rb imm5 s10 s
  | .bneui rb imm5 s10 => Sys2Proof.Machine.execBneui rb imm5 s10 s
  | .bltui rb imm5 s10 => Sys2Proof.Machine.execBltui rb imm5 s10 s
  | .bgeui rb imm5 s10 => Sys2Proof.Machine.execBgeui rb imm5 s10 s
  | .add ra rb rc => Sys2Proof.Machine.execAdd ra rb rc s
  | .addi ra rb i10 => Sys2Proof.Machine.execAddi ra rb i10 s
  | .sub ra rb rc => Sys2Proof.Machine.execSub ra rb rc s
  | .mulu rh ra rb rc => Sys2Proof.Machine.execMulu rh ra rb rc s
  | .mul => Sys2Proof.Machine.execMul s
  | .seq ra rb rc => Sys2Proof.Machine.execSeq ra rb rc s
  | .sne ra rb rc => Sys2Proof.Machine.execSne ra rb rc s
  | .slt ra rb rc => Sys2Proof.Machine.execSlt ra rb rc s
  | .sge ra rb rc => Sys2Proof.Machine.execSge ra rb rc s
  | .sltu ra rb rc => Sys2Proof.Machine.execSltu ra rb rc s
  | .sgeu ra rb rc => Sys2Proof.Machine.execSgeu ra rb rc s
  | .and ra rb rc => Sys2Proof.Machine.execAnd ra rb rc s
  | .or ra rb rc => Sys2Proof.Machine.execOr ra rb rc s
  | .xor ra rb rc => Sys2Proof.Machine.execXor ra rb rc s
  | .andn ra rb rc => Sys2Proof.Machine.execAndn ra rb rc s
  | .andi ra rb s16 => Sys2Proof.Machine.execAndi ra rb s16 s
  | .ori ra rb s16 => Sys2Proof.Machine.execOri ra rb s16 s
  | .xori ra rb s16 => Sys2Proof.Machine.execXori ra rb s16 s
  | .sll ra rb rc => Sys2Proof.Machine.execSll ra rb rc s
  | .slr ra rb rc => Sys2Proof.Machine.execSlr ra rb rc s
  | .sar ra rb rc => Sys2Proof.Machine.execSar ra rb rc s
  | .slli ra rb u5 => Sys2Proof.Machine.execSlli ra rb u5 s
  | .slri ra rb u5 => Sys2Proof.Machine.execSlri ra rb u5 s
  | .sari ra rb u5 => Sys2Proof.Machine.execSari ra rb u5 s
  | .lr8 ra rb rc => Sys2Proof.Machine.execLr8 ra rb rc s
  | .lr8u ra rb rc => Sys2Proof.Machine.execLr8u ra rb rc s
  | .lr16 ra rb rc => Sys2Proof.Machine.execLr16 ra rb rc s
  | .lr16u ra rb rc => Sys2Proof.Machine.execLr16u ra rb rc s
  | .lr32 ra rb rc => Sys2Proof.Machine.execLr32 ra rb rc s
  | .lx16 ra rb rc => Sys2Proof.Machine.execLx16 ra rb rc s
  | .lx16u ra rb rc => Sys2Proof.Machine.execLx16u ra rb rc s
  | .lx32 ra rb rc => Sys2Proof.Machine.execLx32 ra rb rc s
  | .ld8 ra rb i10 => Sys2Proof.Machine.execLd8 ra rb i10 s
  | .ld8u ra rb i10 => Sys2Proof.Machine.execLd8u ra rb i10 s
  | .ld16 ra rb i10 => Sys2Proof.Machine.execLd16 ra rb i10 s
  | .ld16u ra rb i10 => Sys2Proof.Machine.execLd16u ra rb i10 s
  | .ld32 ra rb i10 => Sys2Proof.Machine.execLd32 ra rb i10 s
  | .sr8 ra rb rc => Sys2Proof.Machine.execSr8 ra rb rc s
  | .sr16 ra rb rc => Sys2Proof.Machine.execSr16 ra rb rc s
  | .sr32 ra rb rc => Sys2Proof.Machine.execSr32 ra rb rc s
  | .sx16 ra rb rc => Sys2Proof.Machine.execSx16 ra rb rc s
  | .sx32 ra rb rc => Sys2Proof.Machine.execSx32 ra rb rc s
  | .sd8 ra rb i10 => Sys2Proof.Machine.execSd8 ra rb i10 s
  | .sd16 ra rb i10 => Sys2Proof.Machine.execSd16 ra rb i10 s
  | .sd32 ra rb i10 => Sys2Proof.Machine.execSd32 ra rb i10 s
  | .mvz ra rb rc => Sys2Proof.Machine.execMvz ra rb rc s
  | .mvnz ra rb rc => Sys2Proof.Machine.execMvnz ra rb rc s
  | .csb ra rb => Sys2Proof.Machine.execCsb ra rb s
  | .brev ra rb => Sys2Proof.Machine.execBrev ra rb s
  | .swap ra rb i10 => Sys2Proof.Machine.execSwap ra rb i10 s
  | .trap ra s10 => Sys2Proof.Machine.execTrap ra s10 s
  | .sbrk => Sys2Proof.Machine.execSbrk s
  | .rte => Sys2Proof.Machine.execRte s
  | .sleep => Sys2Proof.Machine.execSleep s
  | .rcr ra cr => Sys2Proof.Machine.execRcr ra cr s
  | .wcr ra cr => Sys2Proof.Machine.execWcr ra cr s
  | .cld ra id number => Sys2Proof.Machine.execCld ra id number s
  | .cst ra id number => Sys2Proof.Machine.execCst ra id number s
  | .itlb cmd rb => Sys2Proof.Machine.execItlb cmd rb s
  | .dtlb cmd rb => Sys2Proof.Machine.execDtlb cmd rb s
  | .icache cmd rb s10 => Sys2Proof.Machine.execIcache cmd rb s10 s
  | .dcache cmd rb s10 => Sys2Proof.Machine.execDcache cmd rb s10 s

end Sys2Proof.Machine
end

