-- ==== Sys2Proof/Machine/Fetch.lean ====
section
/-! DEFINITION. The instruction boundary: the interrupt request (60_exceptions.md R351), the fetch (20_memory.md R67, R74,
10_state.md R25) and the decoding of what was fetched (30_encoding.md R118, R119). -/

namespace Sys2Proof.Machine

open Sys2Proof

/-- The level of the interrupt request at this boundary (R351). -/
def State.intRequest (s : State) : Bool := s.intRequests.headD false

/-- The state with this boundary's level sampled. -/
def State.sampled (s : State) : State := { s with intRequests := s.intRequests.tail }

/-- The interrupt is taken at this boundary (R351). -/
def State.takesInterrupt (s : State) : Bool := s.intRequest && s.ie

/-- Entry of INT: the unit wakes if it slept, and the address saved is that of the first instruction not executed
(R289, R347, R351). -/
def takeInterrupt (s : State) : Result := enter .int s.pc { s with sleeping := false }

/-- What a fetch gives: an instruction, or what the step ends in instead. -/
inductive Fetched where
  | instr (i : Instr)
  | ends (r : Result)

/-- The program has stored to one of the four bytes at `a` (R74). -/
def State.modified (s : State) (a : Word) : Bool :=
  isStored s.stored a || isStored s.stored (a + 1#32) || isStored s.stored (a + 2#32) || isStored s.stored (a + 3#32)

/-- The four bytes of the word at `a`, in the order memory holds them. -/
def State.bytesAt (s : State) (a : Word) : List Byte :=
  [s.byteAt a, s.byteAt (a + 1#32), s.byteAt (a + 2#32), s.byteAt (a + 3#32)]

/-- What becomes of a word that is no instruction: an unassigned encoding raises ILLINS (R119, R349); a 1 in a field
drawn as zero is refused (R111), after the privilege check for ITLB and DTLB (R295, R296). -/
def rejectEncoding (s : State) : DecodeError → Result
  | .unassigned | .truncated => enter .illins s.pc s
  | .mustBeZero => .refused .nonZeroMustBeZero
  | .mustBeZeroPrivileged => supervisorOnly s (.refused .nonZeroMustBeZero)

/-- The instruction at the pc (R25, R67, R74). -/
def fetchInstr (s : State) : Fetched :=
  if isAligned s.pc .word then
    if accessFault s.cfg .fetch s.pc .word s.mode then .ends (enter .ifault s.pc s)
    else if !s.cfg.ifetchCoherent && s.modified s.pc then .ends (.refused .fetchOfModifiedCode)
    else
      match decodeBytes s.cfg.endian (s.bytesAt s.pc) with
      | .ok i => .instr i
      | .error e => .ends (rejectEncoding s e)
  else
    match s.cfg.misalignedPc with
    | .refuse => .ends (.refused .misalignedPc)
    | .ifault => .ends (enter .ifault s.pc s)

/-- The state with an instruction word placed where the next step fetches, from outside the machine: the word's bytes at
the pc, and nothing in the way of the fetch (no stored-to mark on those bytes, no sleep, no interrupt taken first, no
low pc bits, no access fault on the fetch). Where nothing is in the way only memory changes. -/
def placeInstruction (s : State) (w : Word) : State :=
  let a := s.pc &&& ~~~3#32
  { s with
    pc := a
    mem := s.mem.placeWord s.cfg.endian a w
    stored := forgetStored s.stored a
    sleeping := false
    intRequests := if s.takesInterrupt then false :: s.intRequests.tail else s.intRequests
    cfg := { s.cfg with accessRules := s.cfg.accessRules.filter (fun r => !ruleMatches r .fetch a .word s.mode) } }

end Sys2Proof.Machine
end

