-- ==== Sys2Proof/Machine/Step.lean ====
section
/-! DEFINITION. One step of the machine: an interrupt entry, an idle step while sleeping, or one instruction
(00_scope.md R11, 60_exceptions.md R351, 70_reset_and_hazards.md R404). -/

namespace Sys2Proof.Machine

open Sys2Proof

/-- One step. The interrupt request is sampled once, before the fetch. -/
def step (s : State) : Host.Outcome State Fault Refusal :=
  if s.takesInterrupt then takeInterrupt s.sampled
  else if s.sleeping then .next s.sampled
  else
    match fetchInstr s.sampled with
    | .instr i => exec i s.sampled
    | .ends r => r

/-- The state with the instruction of `nbits` bits `w` placed where `step` fetches next (log 18). -/
def State.withFetchWord (s : State) (nbits w : Nat) : State :=
  placeInstruction s (BitVec.ofNat 32 (w % 2 ^ nbits))

end Sys2Proof.Machine
end

