-- ==== Sys2Proof/Machine/Assembler.lean ====
section
/-! DEFINITION. The assembler's operators and macro instructions (49_abi_assembler.md R330, R331). No step reads them. -/

namespace Sys2Proof.Machine

open Sys2Proof

/-- `@h21`: `v >>u 11`, the field LHI takes (R330). -/
def opH21 (v : Word) : BitVec 21 := (v >>> 11).setWidth 21

/-- `@l11`: `v & 0x7ff`, in the 16-bit field of ORI, ANDI and XORI (R330). -/
def opL11 (v : Word) : BitVec 16 := (v &&& 0x7FF#32).setWidth 16

/-- `@eh21`: `(v + (v & 0x400)) >>u 11`, the sum modulo 2^32 (R330; 90_conflicts.md C14). -/
def opEh21 (v : Word) : BitVec 21 := ((v + (v &&& 0x400#32)) >>> 11).setWidth 21

/-- `@o11`: `(v & 0x7ff) >>u 2`, in the 10-bit field of LD32, SD32 and SWAP (R330). -/
def opO11 (v : Word) : BitVec 10 := ((v &&& 0x7FF#32) >>> 2).setWidth 10

/-- `@ho11`: the low 11 bits as a signed number, shifted right by 1, in the 10-bit field of LD16 and SD16 (R330). -/
def opHo11 (v : Word) : BitVec 10 := ((v <<< 21).sshiftRight 22).setWidth 10

/-- `mov Ra, Rb` is `or Ra, Rb, R0` (R331). -/
def macroMov (ra rb : Reg) : List Instr := [.or ra rb 0#5]

/-- `movi Ra, imm` is `ori Ra, R0, imm` (R331; 90_conflicts.md C14). -/
def macroMovi (ra : Reg) (imm : BitVec 16) : List Instr := [.ori ra 0#5 imm]

/-- `mova Ra, sym` is `lhi Ra, sym@h21` then `ori Ra, Ra, sym@l11` (R331). -/
def macroMova (ra : Reg) (sym : Word) : List Instr := [.lhi ra (opH21 sym), .ori ra ra (opL11 sym)]

/-- `movhi Ra, sym` is `lhi Ra, sym@h21` (R331). -/
def macroMovhi (ra : Reg) (sym : Word) : List Instr := [.lhi ra (opH21 sym)]

/-- `movlo Ra, sym` is `ori Ra, Ra, sym@l11` (R331; 90_conflicts.md C14). -/
def macroMovlo (ra : Reg) (sym : Word) : List Instr := [.ori ra ra (opL11 sym)]

/-- `nop` is `or R0, R0, R0`, the word `0x08000800` (R120, R331). -/
def macroNop : List Instr := [.or 0#5 0#5 0#5]

end Sys2Proof.Machine
end

