-- ==== Sys2Proof/Safety.lean ====
section
/-! DEFINITION. The terms the claims use: the invariant of the machine, what an instruction leaves unchanged, how an
instruction completes, and the encoding boxes of 30_encoding.md as the spec draws them. -/

namespace Sys2Proof.Machine

open Sys2Proof

/-! ## The invariant -/

/-- Memory and the list of stored addresses have their canonical forms, the reserved bits of SR are 0 (R33), and a
sleeping unit is in supervisor mode with interrupts enabled (R289). -/
def State.Inv (s : State) : Prop :=
  Memory.wf s.mem = true ∧ addressesWf s.stored = true ∧ s.sr &&& ~~~srStorage = 0#32 ∧
    (s.sleeping = true → s.ie = true ∧ s.mode = .supervisor)

/-! ## What stays as it was -/

/-- Every general register but those of the list. -/
def SameRegs (s t : State) (written : List Reg) : Prop := ∀ r : Reg, r ∉ written → t.reg r = s.reg r

/-- The five control registers. -/
def SameControl (s t : State) : Prop :=
  t.sr = s.sr ∧ t.esr = s.esr ∧ t.epc = s.epc ∧ t.dsr = s.dsr ∧ t.dpc = s.dpc

/-- Every byte of memory. -/
def SameMemory (s t : State) : Prop := ∀ a : Word, t.byteAt a = s.byteAt a

/-- Every byte of memory but the `n` bytes from `a`. -/
def SameMemoryOutside (s t : State) (a : Word) (n : Nat) : Prop :=
  ∀ x : Word, (∀ k : Nat, k < n → x ≠ a + BitVec.ofNat 32 k) → t.byteAt x = s.byteAt x

/-- The sleeping state, the interrupt requests to come, the module and command channels, and the configuration. -/
def SameHidden (s t : State) : Prop :=
  t.sleeping = s.sleeping ∧ t.intRequests = s.intRequests ∧ t.moduleLog = s.moduleLog ∧ t.commandLog = s.commandLog ∧
    t.cfg = s.cfg

/-- Everything but the pc and the general registers of the list. -/
def Frame (s t : State) (written : List Reg) : Prop :=
  SameRegs s t written ∧ SameControl s t ∧ SameMemory s t ∧ t.stored = s.stored ∧ SameHidden s t

/-- `s` with the five control registers of `c`: what user mode cannot see (R360). -/
def withControl (s c : State) : State := { s with sr := c.sr, esr := c.esr, epc := c.epc, dsr := c.dsr, dpc := c.dpc }

/-! ## How an instruction completes -/

/-- The outcome is a next state in which register `ra` holds `v` (0 if it is R0), the pc is that of the following
instruction, and nothing else differs. -/
def CompletesWith (r : Result) (s : State) (ra : Reg) (v : Word) : Prop :=
  ∃ t : State, r = .next t ∧ t.reg ra = (if ra = 0#5 then 0#32 else v) ∧ t.pc = s.pc + 4#32 ∧ Frame s t [ra]

/-- The outcome is a next state that differs in the pc alone: the branch target if `taken`, else the following
instruction. -/
def Branches (r : Result) (s : State) (taken : Prop) (s10 : BitVec 10) : Prop :=
  ∃ t : State, r = .next t ∧ (taken → t.pc = s.pc + 4#32 + (s10.signExtend 32 <<< 2)) ∧
    (¬taken → t.pc = s.pc + 4#32) ∧ Frame s t []

/-- The outcome is a next state in which the `n` bytes from `a` satisfy `datum`, the pc is that of the following
instruction, no register changes and no other byte of memory does; the bytes count as stored to. -/
def CompletesStoring (r : Result) (s : State) (a : Word) (n : Nat) (datum : State → Prop) : Prop :=
  ∃ t : State, r = .next t ∧ datum t ∧ t.pc = s.pc + 4#32 ∧ SameRegs s t [] ∧ SameControl s t ∧ SameHidden s t ∧
    SameMemoryOutside s t a n ∧
    (∀ x : Word, isStored t.stored x = true ↔
      isStored s.stored x = true ∨ ∃ k : Nat, k < n ∧ x = a + BitVec.ofNat 32 k)

/-- The vector base as the spec computes it for every exception but DBOOT (R32, R344). -/
def SpecVectorBase (s : State) : Word :=
  if s.cfg.hostMode then 0xEC000000#32 else 0x80000000#32 + (s.vb.setWidth 32 <<< 26)

/-- The outcome is the entry of a non-debug exception (R346): the return address goes to EPC and SR to ESR; IE and DS
are cleared, SM set, DE and VB kept; the pc is the word of the vector entry; no register but those of the list, no
memory and nothing hidden changes. -/
def EntersNonDebug (r : Result) (s : State) (offset ret : Word) (written : List Reg) : Prop :=
  ∃ t : State, r = .next t ∧ t.esr = s.readSr ∧ t.epc = ret ∧ t.dsr = s.dsr ∧ t.dpc = s.dpc ∧
    t.ie = false ∧ t.ds = false ∧ t.mode = .supervisor ∧ t.de = s.de ∧ t.vb = s.vb ∧ t.sr &&& ~~~srStorage = 0#32 ∧
    t.pc = s.wordAt (SpecVectorBase s + offset) ∧
    SameRegs s t written ∧ SameMemory s t ∧ t.stored = s.stored ∧ SameHidden s t

/-- The outcome is the entry of a debug exception (R346): DPC, DSR; IE and DE are cleared, DS and SM set, VB kept. -/
def EntersDebug (r : Result) (s : State) (offset ret : Word) : Prop :=
  ∃ t : State, r = .next t ∧ t.dsr = s.readSr ∧ t.dpc = ret ∧ t.esr = s.esr ∧ t.epc = s.epc ∧
    t.ie = false ∧ t.de = false ∧ t.ds = true ∧ t.mode = .supervisor ∧ t.vb = s.vb ∧ t.sr &&& ~~~srStorage = 0#32 ∧
    t.pc = s.wordAt (SpecVectorBase s + offset) ∧
    SameRegs s t [] ∧ SameMemory s t ∧ t.stored = s.stored ∧ SameHidden s t

/-- The read of the vector entry at `offset` does not fault (R356). -/
def VectorReadable (s : State) (offset : Word) : Prop :=
  accessFault s.cfg .load (SpecVectorBase s + offset) .word .supervisor = false

/-- A data access of the size is aligned and does not fault (R64, R67). -/
def Accessible (s : State) (kind : AccessKind) (a : Word) (size : AccessSize) : Prop :=
  isAligned a size = true ∧ accessFault s.cfg kind a size s.mode = false

/-- The outcome is a next state at the following instruction that differs from `s` in nothing else. It is used with a
state that already carries the one effect an instruction has. -/
def CompletesAs (r : Result) (s : State) : Prop := ∃ t : State, r = .next t ∧ t.pc = s.pc + 4#32 ∧ Frame s t []

/-- What a data access that cannot be made does (R64, R67, R350): DFAULT with the address of the instruction and no write
where `AccessFault` holds; on a misaligned address a refusal, or DFAULT under the parameter. -/
def AccessStops (r : Result) (s : State) (kind : AccessKind) (a : Word) (size : AccessSize) : Prop :=
  (isAligned a size = true → accessFault s.cfg kind a size s.mode = true → VectorReadable s 0x18#32 →
      EntersNonDebug r s 0x18#32 s.pc []) ∧
    (isAligned a size = false → s.cfg.misalignedData = .refuse → r = .refused .misalignedAccess) ∧
    (isAligned a size = false → s.cfg.misalignedData = .dfault → VectorReadable s 0x18#32 →
      EntersNonDebug r s 0x18#32 s.pc [])

/-- A load (R233): it completes with `v` in `ra` where the access can be made, and stops as above where it cannot. -/
def LoadRule (i : Instr) (s : State) (ra : Reg) (a : Word) (size : AccessSize) (v : Word) : Prop :=
  (Accessible s .load a size → CompletesWith (exec i s) s ra v) ∧ AccessStops (exec i s) s .load a size

/-- A store (R234): the bytes at `a` take the datum where the access can be made; it stops as above where it cannot. -/
def StoreRule (i : Instr) (s : State) (a : Word) (size : AccessSize) (datum : State → Prop) : Prop :=
  (Accessible s .store a size → CompletesStoring (exec i s) s a (AccessSize.bytes size) datum) ∧
    AccessStops (exec i s) s .store a size

/-- In user mode a privilege instruction raises ILLINS with its own address and does nothing else (R285, R349). -/
def IllegalInUserMode (i : Instr) (s : State) : Prop :=
  s.mode = .user → VectorReadable s 0x04#32 → EntersNonDebug (exec i s) s 0x04#32 s.pc []

/-- Nothing stands in the way of the fetch at the pc: no interrupt is taken, the unit is awake, the pc is aligned, the
fetch does not fault, and the program has not stored to the bytes, or the fetch is coherent (R25, R67, R74, R351). -/
def FetchesAt (s : State) : Prop :=
  (s.intRequests.headD false = false ∨ s.ie = false) ∧ s.sleeping = false ∧ isAligned s.pc .word = true ∧
    accessFault s.cfg .fetch s.pc .word s.mode = false ∧
    (s.cfg.ifetchCoherent = true ∨ ∀ k : Nat, k < 4 → isStored s.stored (s.pc + BitVec.ofNat 32 k) = false)

/-- The state after the sampling of one boundary (R351). -/
def Boundary (s : State) : State := { s with intRequests := s.intRequests.tail }

/-! ## The encoding boxes (R109) -/

/-- A box of four 5-bit cells: bits 31:26, 25:21, 20:16, 15:10, 9:5, 4:0. -/
def box (o1 : BitVec 6) (c25 c20 : BitVec 5) (o2 : BitVec 6) (c9 c4 : BitVec 5) : Word :=
  o1 ++ c25 ++ c20 ++ o2 ++ c9 ++ c4

/-- A box whose last cell is bits 9:0. -/
def box10 (o1 : BitVec 6) (c25 c20 : BitVec 5) (o2 : BitVec 6) (imm : BitVec 10) : Word :=
  o1 ++ c25 ++ c20 ++ o2 ++ imm

/-- A box whose last cell is bits 15:0 (Format 5). -/
def box16 (o1 : BitVec 6) (c25 c20 : BitVec 5) (imm : BitVec 16) : Word := o1 ++ c25 ++ c20 ++ imm

/-- A box whose last cell is bits 20:0 (Format 6). -/
def box21 (o1 : BitVec 6) (c25 : BitVec 5) (imm : BitVec 21) : Word := o1 ++ c25 ++ imm

/-- The operator pairs of R112 to R117: OP1 alone for J, LHI, ANDI, ORI and XORI, OP1 with OP2 for the others. -/
def isAssigned (o1 o2 : BitVec 6) : Bool :=
  [0b000101#6, 0b001001#6, 0b001100#6, 0b010100#6, 0b011000#6].contains o1 ||
    [(0b000000#6, [0b000000#6, 0b000001#6, 0b000010#6, 0b000100#6, 0b000101#6, 0b001000#6, 0b001001#6, 0b001100#6,
        0b001101#6, 0b010100#6, 0b011000#6]),
      (0b000010#6, [0b000000#6, 0b000001#6, 0b000010#6, 0b000011#6, 0b000100#6, 0b001000#6, 0b001001#6, 0b001100#6,
        0b001101#6, 0b010000#6, 0b010001#6, 0b010010#6, 0b010100#6, 0b010110#6, 0b011000#6, 0b011100#6, 0b100000#6,
        0b100001#6, 0b110001#6]),
      (0b000100#6, [0b000000#6, 0b000010#6, 0b000100#6, 0b000110#6, 0b001000#6, 0b001010#6, 0b001100#6, 0b001110#6]),
      (0b000110#6, [0b000000#6, 0b000010#6, 0b000100#6, 0b000110#6, 0b001000#6, 0b001100#6]),
      (0b001000#6, [0b000000#6, 0b000001#6, 0b000010#6, 0b000011#6, 0b000110#6, 0b000111#6, 0b001010#6, 0b001110#6,
        0b001111#6]),
      (0b001010#6, [0b000000#6, 0b000001#6, 0b000010#6, 0b000011#6, 0b000110#6, 0b000111#6, 0b001010#6, 0b001110#6,
        0b010000#6, 0b010001#6, 0b010010#6, 0b010011#6, 0b011010#6]),
      (0b011001#6, [0b000000#6, 0b000001#6, 0b000011#6, 0b000100#6, 0b000101#6, 0b001000#6, 0b001001#6,
        0b010011#6])].any (fun g => g.1 == o1 && g.2.contains o2)

end Sys2Proof.Machine
end

