-- ==== Sys2Proof/Certificates/Slice0/Obligations.lean ====
section
/-! DEFINITION. The statements for the provers, rule by rule of spec/. A statement of a family says of each of its
instructions where its operands stand in the encoding box, with the don't-care fields free, and what it does in every state. -/

open Sys2Proof Sys2Proof.Machine

/-! ## Immediate load and jumps (40_immediate_load.md, 41_jump.md) -/

/-- R141: LHI loads `{i21, 11'b0}`. -/
def Obligations.LhiLoadsHighBits : Prop :=
  ∀ (ra : Reg) (i21 : BitVec 21) (s : State),
    decode (box21 0b001001#6 ra i21) = .ok (.lhi ra i21) ∧
      CompletesWith (exec (.lhi ra i21) s) s ra (i21 ++ 0#11)

/-- LHI of the high 21 bits and ORI of the low 11 load exactly `k`, for every 32-bit `k`: the spec's own derivation (R142) from
R141 and R206. -/
def Obligations.LhiOriLoadsConstant : Prop :=
  ∀ (ra : Reg) (k : Word) (s : State), ∃ t u : State,
    exec (.lhi ra (k.extractLsb' 11 21)) s = .next t ∧ exec (.ori ra ra (0#5 ++ k.extractLsb' 0 11)) t = .next u ∧
      u.reg ra = (if ra = 0#5 then 0#32 else k) ∧ u.pc = s.pc + 8#32 ∧ Frame s u [ra]

/-- R146: J links and goes to the following address plus the scaled signed field. -/
def Obligations.JumpRelative : Prop :=
  ∀ (ra : Reg) (s21 : BitVec 21) (s : State),
    decode (box21 0b000101#6 ra s21) = .ok (.j ra s21) ∧
      ∃ t : State, exec (.j ra s21) s = .next t ∧ t.reg ra = (if ra = 0#5 then 0#32 else s.pc + 4#32) ∧
        t.pc = BitVec.ofInt 32 ((s.pc.toNat : Int) + 4 + 4 * s21.toInt) ∧ Frame s t [ra]

/-- R147: JA links and goes to the old `rb` OR the scaled unsigned field, also where `ra` is `rb`. -/
def Obligations.JumpAbsolute : Prop :=
  ∀ (ra rb : Reg) (u10 : BitVec 10) (s : State),
    decode (box10 0b000000#6 ra rb 0b000010#6 u10) = .ok (.ja ra rb u10) ∧
      ∃ t : State, exec (.ja ra rb u10) s = .next t ∧ t.reg ra = (if ra = 0#5 then 0#32 else s.pc + 4#32) ∧
        t.pc = s.reg rb ||| BitVec.ofNat 32 (4 * u10.toNat) ∧ Frame s t [ra]

/-! ## Branches (42_branch.md) -/

/-- R158 to R163: the six branches that compare two registers, the first written operand on the left. -/
def Obligations.BranchesOnRegisters : Prop :=
  ∀ (rb ra : Reg) (s10 : BitVec 10) (s : State),
    (decode (box10 0b000110#6 ra rb 0b000110#6 s10) = .ok (.beq rb ra s10) ∧
      Branches (exec (.beq rb ra s10) s) s (s.reg rb = s.reg ra) s10) ∧
    (decode (box10 0b000110#6 ra rb 0b000010#6 s10) = .ok (.bne rb ra s10) ∧
      Branches (exec (.bne rb ra s10) s) s (s.reg rb ≠ s.reg ra) s10) ∧
    (decode (box10 0b000110#6 ra rb 0b000100#6 s10) = .ok (.blt rb ra s10) ∧
      Branches (exec (.blt rb ra s10) s) s ((s.reg rb).toInt < (s.reg ra).toInt) s10) ∧
    (decode (box10 0b000110#6 ra rb 0b000000#6 s10) = .ok (.bge rb ra s10) ∧
      Branches (exec (.bge rb ra s10) s) s ((s.reg ra).toInt ≤ (s.reg rb).toInt) s10) ∧
    (decode (box10 0b000110#6 ra rb 0b001100#6 s10) = .ok (.bltu rb ra s10) ∧
      Branches (exec (.bltu rb ra s10) s) s ((s.reg rb).toNat < (s.reg ra).toNat) s10) ∧
    (decode (box10 0b000110#6 ra rb 0b001000#6 s10) = .ok (.bgeu rb ra s10) ∧
      Branches (exec (.bgeu rb ra s10) s) s ((s.reg ra).toNat ≤ (s.reg rb).toNat) s10)

/-- R165 to R172: the eight branches that compare with a 5-bit immediate, signed or unsigned by the instruction. -/
def Obligations.BranchesOnImmediate : Prop :=
  ∀ (rb : Reg) (imm5 : BitVec 5) (s10 : BitVec 10) (s : State),
    (decode (box10 0b000100#6 imm5 rb 0b000110#6 s10) = .ok (.beqi rb imm5 s10) ∧
      Branches (exec (.beqi rb imm5 s10) s) s ((s.reg rb).toInt = imm5.toInt) s10) ∧
    (decode (box10 0b000100#6 imm5 rb 0b000010#6 s10) = .ok (.bnei rb imm5 s10) ∧
      Branches (exec (.bnei rb imm5 s10) s) s ((s.reg rb).toInt ≠ imm5.toInt) s10) ∧
    (decode (box10 0b000100#6 imm5 rb 0b000100#6 s10) = .ok (.blti rb imm5 s10) ∧
      Branches (exec (.blti rb imm5 s10) s) s ((s.reg rb).toInt < imm5.toInt) s10) ∧
    (decode (box10 0b000100#6 imm5 rb 0b000000#6 s10) = .ok (.bgei rb imm5 s10) ∧
      Branches (exec (.bgei rb imm5 s10) s) s (imm5.toInt ≤ (s.reg rb).toInt) s10) ∧
    (decode (box10 0b000100#6 imm5 rb 0b001110#6 s10) = .ok (.bequi rb imm5 s10) ∧
      Branches (exec (.bequi rb imm5 s10) s) s ((s.reg rb).toNat = imm5.toNat) s10) ∧
    (decode (box10 0b000100#6 imm5 rb 0b001010#6 s10) = .ok (.bneui rb imm5 s10) ∧
      Branches (exec (.bneui rb imm5 s10) s) s ((s.reg rb).toNat ≠ imm5.toNat) s10) ∧
    (decode (box10 0b000100#6 imm5 rb 0b001100#6 s10) = .ok (.bltui rb imm5 s10) ∧
      Branches (exec (.bltui rb imm5 s10) s) s ((s.reg rb).toNat < imm5.toNat) s10) ∧
    (decode (box10 0b000100#6 imm5 rb 0b001000#6 s10) = .ok (.bgeui rb imm5 s10) ∧
      Branches (exec (.bgeui rb imm5 s10) s) s (imm5.toNat ≤ (s.reg rb).toNat) s10)

/-- R150: only JA, RTE and exception entry can change the low two bits of the pc. -/
def Obligations.TargetsKeepPcAlignment : Prop :=
  ∀ (i : Instr) (s t : State), (∀ ra rb u10, i ≠ .ja ra rb u10) → i ≠ .rte → exec i s = .next t →
    t.pc &&& 3#32 = s.pc &&& 3#32 ∨
      ∃ e : Exc, t.pc = s.wordAt (s.vectorBase e + e.offset) ∧ (t.esr = s.readSr ∨ t.dsr = s.readSr)

/-! ## Arithmetic and comparison (43_arithmetic_compare.md) -/

/-- R181, R182, R183: addition and subtraction modulo 2^32. -/
def Obligations.AddAndSubtract : Prop :=
  ∀ (ra rb rc : Reg) (dc : BitVec 5) (s10 : BitVec 10) (s : State),
    (decode (box 0b000010#6 rc rb 0b000000#6 dc ra) = .ok (.add ra rb rc) ∧
      CompletesWith (exec (.add ra rb rc) s) s ra (BitVec.ofNat 32 ((s.reg rb).toNat + (s.reg rc).toNat))) ∧
    (decode (box10 0b000000#6 ra rb 0b000000#6 s10) = .ok (.addi ra rb s10) ∧
      CompletesWith (exec (.addi ra rb s10) s) s ra (BitVec.ofInt 32 ((s.reg rb).toInt + s10.toInt))) ∧
    (decode (box 0b000010#6 rc rb 0b100000#6 dc ra) = .ok (.sub ra rb rc) ∧
      CompletesWith (exec (.sub ra rb rc) s) s ra (BitVec.ofInt 32 ((s.reg rb).toInt - (s.reg rc).toInt)))

/-- R184: MULU, both halves of the exact unsigned product. The refusal where both destinations are one register, not R0,
is the spec's own choice (D18; log 11). -/
def Obligations.MultiplyUnsigned : Prop :=
  ∀ (rh ra rb rc : Reg) (s : State),
    decode (box 0b000010#6 rc rb 0b010001#6 rh ra) = .ok (.mulu rh ra rb rc) ∧
    (rh ≠ ra ∨ ra = 0#5 →
      ∃ t : State, exec (.mulu rh ra rb rc) s = .next t ∧
        t.reg rh = (if rh = 0#5 then 0#32 else
          BitVec.ofNat 32 ((s.reg rb).toNat * (s.reg rc).toNat / 2 ^ 32)) ∧
        t.reg ra = (if ra = 0#5 then 0#32 else
          BitVec.ofNat 32 ((s.reg rb).toNat * (s.reg rc).toNat % 2 ^ 32)) ∧
        t.pc = s.pc + 4#32 ∧ Frame s t [rh, ra]) ∧
    (rh = ra → ra ≠ 0#5 → exec (.mulu rh ra rb rc) s = .refused .muluSameDestination)

/-- R185: MUL has an encoding and no semantics; it is neither unassigned nor a multiply: the spec's own choice (D19; log 12). -/
def Obligations.MulIsRefused : Prop :=
  ∀ (c25 c20 c9 c4 : BitVec 5) (s : State),
    decode (box 0b000010#6 c25 c20 0b110001#6 c9 c4) = .ok .mul ∧ exec .mul s = .refused .mulNoDescription

/-- R187 to R192: the six comparisons give the word 1 or the word 0. -/
def Obligations.SetOnComparison : Prop :=
  ∀ (ra rb rc : Reg) (dc : BitVec 5) (s : State),
    (decode (box 0b000010#6 rc rb 0b010110#6 dc ra) = .ok (.seq ra rb rc) ∧
      CompletesWith (exec (.seq ra rb rc) s) s ra (if s.reg rb = s.reg rc then 1#32 else 0#32)) ∧
    (decode (box 0b000010#6 rc rb 0b010010#6 dc ra) = .ok (.sne ra rb rc) ∧
      CompletesWith (exec (.sne ra rb rc) s) s ra (if s.reg rb ≠ s.reg rc then 1#32 else 0#32)) ∧
    (decode (box 0b000010#6 rc rb 0b010100#6 dc ra) = .ok (.slt ra rb rc) ∧
      CompletesWith (exec (.slt ra rb rc) s) s ra (if (s.reg rb).toInt < (s.reg rc).toInt then 1#32 else 0#32)) ∧
    (decode (box 0b000010#6 rc rb 0b010000#6 dc ra) = .ok (.sge ra rb rc) ∧
      CompletesWith (exec (.sge ra rb rc) s) s ra (if (s.reg rc).toInt ≤ (s.reg rb).toInt then 1#32 else 0#32)) ∧
    (decode (box 0b000010#6 rc rb 0b011100#6 dc ra) = .ok (.sltu ra rb rc) ∧
      CompletesWith (exec (.sltu ra rb rc) s) s ra (if (s.reg rb).toNat < (s.reg rc).toNat then 1#32 else 0#32)) ∧
    (decode (box 0b000010#6 rc rb 0b011000#6 dc ra) = .ok (.sgeu ra rb rc) ∧
      CompletesWith (exec (.sgeu ra rb rc) s) s ra (if (s.reg rc).toNat ≤ (s.reg rb).toNat then 1#32 else 0#32))

/-! ## Bitwise (44_bitwise.md) -/

/-- R201 to R204: AND, OR, XOR and ANDN, bit by bit, the complemented operand of ANDN being `rc`. -/
def Obligations.BitwiseRegisters : Prop :=
  ∀ (ra rb rc : Reg) (dc : BitVec 5) (s : State),
    (decode (box 0b000010#6 rc rb 0b000001#6 dc ra) = .ok (.and ra rb rc) ∧
      ∃ v : Word, (∀ k, v.getLsbD k = ((s.reg rb).getLsbD k && (s.reg rc).getLsbD k)) ∧
        CompletesWith (exec (.and ra rb rc) s) s ra v) ∧
    (decode (box 0b000010#6 rc rb 0b000010#6 dc ra) = .ok (.or ra rb rc) ∧
      ∃ v : Word, (∀ k, v.getLsbD k = ((s.reg rb).getLsbD k || (s.reg rc).getLsbD k)) ∧
        CompletesWith (exec (.or ra rb rc) s) s ra v) ∧
    (decode (box 0b000010#6 rc rb 0b000011#6 dc ra) = .ok (.xor ra rb rc) ∧
      ∃ v : Word, (∀ k, v.getLsbD k = Bool.xor ((s.reg rb).getLsbD k) ((s.reg rc).getLsbD k)) ∧
        CompletesWith (exec (.xor ra rb rc) s) s ra v) ∧
    (decode (box 0b000010#6 rc rb 0b100001#6 dc ra) = .ok (.andn ra rb rc) ∧
      ∃ v : Word, (∀ k, v.getLsbD k = ((s.reg rb).getLsbD k && !(s.reg rc).getLsbD k)) ∧
        CompletesWith (exec (.andn ra rb rc) s) s ra v)

/-- R205 to R207: ANDI, ORI and XORI take the 16-bit field sign-extended. The place of the two register fields is an
inference the spec marks as its own (30_encoding.md R110; log 21). -/
def Obligations.BitwiseImmediates : Prop :=
  ∀ (ra rb : Reg) (s16 : BitVec 16) (s : State),
    (decode (box16 0b001100#6 ra rb s16) = .ok (.andi ra rb s16) ∧
      CompletesWith (exec (.andi ra rb s16) s) s ra (s.reg rb &&& BitVec.ofInt 32 s16.toInt)) ∧
    (decode (box16 0b010100#6 ra rb s16) = .ok (.ori ra rb s16) ∧
      CompletesWith (exec (.ori ra rb s16) s) s ra (s.reg rb ||| BitVec.ofInt 32 s16.toInt)) ∧
    (decode (box16 0b011000#6 ra rb s16) = .ok (.xori ra rb s16) ∧
      CompletesWith (exec (.xori ra rb s16) s) s ra (s.reg rb ^^^ BitVec.ofInt 32 s16.toInt))

/-! ## Shifts (45_shift.md) -/

/-- R217, R218, R219: shifts by the low 5 bits of a register. -/
def Obligations.ShiftsByRegister : Prop :=
  ∀ (ra rb rc : Reg) (dc : BitVec 5) (s : State),
    (decode (box 0b000010#6 rc rb 0b000100#6 dc ra) = .ok (.sll ra rb rc) ∧
      CompletesWith (exec (.sll ra rb rc) s) s ra
        (BitVec.ofNat 32 ((s.reg rb).toNat * 2 ^ ((s.reg rc).toNat % 32)))) ∧
    (decode (box 0b000010#6 rc rb 0b001000#6 dc ra) = .ok (.slr ra rb rc) ∧
      CompletesWith (exec (.slr ra rb rc) s) s ra
        (BitVec.ofNat 32 ((s.reg rb).toNat / 2 ^ ((s.reg rc).toNat % 32)))) ∧
    (decode (box 0b000010#6 rc rb 0b001100#6 dc ra) = .ok (.sar ra rb rc) ∧
      CompletesWith (exec (.sar ra rb rc) s) s ra
        (BitVec.ofInt 32 ((s.reg rb).toInt / 2 ^ ((s.reg rc).toNat % 32))))

/-- R220, R221, R222: shifts by the unsigned immediate; bits 9:5 must be 0. -/
def Obligations.ShiftsByImmediate : Prop :=
  ∀ (ra rb : Reg) (u5 : BitVec 5) (s : State),
    (decode (box 0b000000#6 ra rb 0b000100#6 0#5 u5) = .ok (.slli ra rb u5) ∧
      CompletesWith (exec (.slli ra rb u5) s) s ra (BitVec.ofNat 32 ((s.reg rb).toNat * 2 ^ u5.toNat))) ∧
    (decode (box 0b000000#6 ra rb 0b001000#6 0#5 u5) = .ok (.slri ra rb u5) ∧
      CompletesWith (exec (.slri ra rb u5) s) s ra (BitVec.ofNat 32 ((s.reg rb).toNat / 2 ^ u5.toNat))) ∧
    (decode (box 0b000000#6 ra rb 0b001100#6 0#5 u5) = .ok (.sari ra rb u5) ∧
      CompletesWith (exec (.sari ra rb u5) s) s ra (BitVec.ofInt 32 ((s.reg rb).toInt / 2 ^ u5.toNat)))

/-! ## Memory (20_memory.md) -/

/-- R62: the two byte orders, for the reads and for the writes, and a byte inside a word. -/
def Obligations.ByteOrder : Prop :=
  ∀ (s : State) (a : Word) (h : Half) (w : Word),
    (s.cfg.endian = .big →
      s.halfAt a = s.byteAt a ++ s.byteAt (a + 1#32) ∧
      s.wordAt a = s.byteAt a ++ s.byteAt (a + 1#32) ++ s.byteAt (a + 2#32) ++ s.byteAt (a + 3#32) ∧
      (∀ k : Nat, k < 4 → s.byteAt (a + BitVec.ofNat 32 k) = (s.wordAt a).extractLsb' (24 - 8 * k) 8)) ∧
    (s.cfg.endian = .little →
      s.halfAt a = s.byteAt (a + 1#32) ++ s.byteAt a ∧
      s.wordAt a = s.byteAt (a + 3#32) ++ s.byteAt (a + 2#32) ++ s.byteAt (a + 1#32) ++ s.byteAt a ∧
      (∀ k : Nat, k < 4 → s.byteAt (a + BitVec.ofNat 32 k) = (s.wordAt a).extractLsb' (8 * k) 8)) ∧
    (s.storeHalf a h).halfAt a = h ∧ (s.storeWord a w).wordAt a = w

/-- No instruction but the eight stores and SWAP changes memory (R65, R230 and the instructions' operations). That CST and the
TLB and cache commands leave memory as it was is the model's own choice (D13, D14; logs 5, 6, unsafe for exactly this): a
write of a module control register may change how memory behaves (R294). -/
def Obligations.OnlyStoresChangeMemory : Prop :=
  ∀ (i : Instr) (s t : State), exec i s = .next t →
    (∀ ra rb rc, i ≠ .sr8 ra rb rc ∧ i ≠ .sr16 ra rb rc ∧ i ≠ .sr32 ra rb rc ∧ i ≠ .sx16 ra rb rc ∧
      i ≠ .sx32 ra rb rc) →
    (∀ ra rb imm, i ≠ .sd8 ra rb imm ∧ i ≠ .sd16 ra rb imm ∧ i ≠ .sd32 ra rb imm ∧ i ≠ .swap ra rb imm) →
    SameMemory s t ∧ t.mem = s.mem ∧ t.stored = s.stored

/-! ## Loads and stores (46_load_store.md) -/

/-- R236 to R243: the loads that add two registers, the second one scaled by the width in the LX forms. What happens where
the access cannot be made is the spec's own choice (D2, D5, D8, D9, D32; logs 7, 8, 16). -/
def Obligations.LoadsIndexed : Prop :=
  ∀ (ra rb rc : Reg) (dc : BitVec 5) (s : State),
    (decode (box 0b001010#6 rc rb 0b000110#6 dc ra) = .ok (.lr8 ra rb rc) ∧
      LoadRule (.lr8 ra rb rc) s ra (s.reg rb + s.reg rc) .byte
        (BitVec.ofInt 32 (s.byteAt (s.reg rb + s.reg rc)).toInt)) ∧
    (decode (box 0b001010#6 rc rb 0b001110#6 dc ra) = .ok (.lr8u ra rb rc) ∧
      LoadRule (.lr8u ra rb rc) s ra (s.reg rb + s.reg rc) .byte
        (BitVec.ofNat 32 (s.byteAt (s.reg rb + s.reg rc)).toNat)) ∧
    (decode (box 0b001010#6 rc rb 0b000010#6 dc ra) = .ok (.lr16 ra rb rc) ∧
      LoadRule (.lr16 ra rb rc) s ra (s.reg rb + s.reg rc) .half
        (BitVec.ofInt 32 (s.halfAt (s.reg rb + s.reg rc)).toInt)) ∧
    (decode (box 0b001010#6 rc rb 0b001010#6 dc ra) = .ok (.lr16u ra rb rc) ∧
      LoadRule (.lr16u ra rb rc) s ra (s.reg rb + s.reg rc) .half
        (BitVec.ofNat 32 (s.halfAt (s.reg rb + s.reg rc)).toNat)) ∧
    (decode (box 0b001010#6 rc rb 0b000000#6 dc ra) = .ok (.lr32 ra rb rc) ∧
      LoadRule (.lr32 ra rb rc) s ra (s.reg rb + s.reg rc) .word (s.wordAt (s.reg rb + s.reg rc))) ∧
    (decode (box 0b001010#6 rc rb 0b010010#6 dc ra) = .ok (.lx16 ra rb rc) ∧
      LoadRule (.lx16 ra rb rc) s ra (s.reg rb + (s.reg rc <<< 1)) .half
        (BitVec.ofInt 32 (s.halfAt (s.reg rb + (s.reg rc <<< 1))).toInt)) ∧
    (decode (box 0b001010#6 rc rb 0b011010#6 dc ra) = .ok (.lx16u ra rb rc) ∧
      LoadRule (.lx16u ra rb rc) s ra (s.reg rb + (s.reg rc <<< 1)) .half
        (BitVec.ofNat 32 (s.halfAt (s.reg rb + (s.reg rc <<< 1))).toNat)) ∧
    (decode (box 0b001010#6 rc rb 0b010000#6 dc ra) = .ok (.lx32 ra rb rc) ∧
      LoadRule (.lx32 ra rb rc) s ra (s.reg rb + (s.reg rc <<< 2)) .word (s.wordAt (s.reg rb + (s.reg rc <<< 2))))

/-- R244 to R248: the loads with a displacement, scaled by the width of the access. What happens where the access cannot be
made is the spec's own choice (D2, D5, D8, D9, D32; logs 7, 8, 16). -/
def Obligations.LoadsDisplacement : Prop :=
  ∀ (ra rb : Reg) (s10 : BitVec 10) (s : State),
    (decode (box10 0b001000#6 ra rb 0b000110#6 s10) = .ok (.ld8 ra rb s10) ∧
      LoadRule (.ld8 ra rb s10) s ra (s.reg rb + s10.signExtend 32) .byte
        (BitVec.ofInt 32 (s.byteAt (s.reg rb + s10.signExtend 32)).toInt)) ∧
    (decode (box10 0b001000#6 ra rb 0b001110#6 s10) = .ok (.ld8u ra rb s10) ∧
      LoadRule (.ld8u ra rb s10) s ra (s.reg rb + s10.signExtend 32) .byte
        (BitVec.ofNat 32 (s.byteAt (s.reg rb + s10.signExtend 32)).toNat)) ∧
    (decode (box10 0b001000#6 ra rb 0b000010#6 s10) = .ok (.ld16 ra rb s10) ∧
      LoadRule (.ld16 ra rb s10) s ra (s.reg rb + (s10.signExtend 32 <<< 1)) .half
        (BitVec.ofInt 32 (s.halfAt (s.reg rb + (s10.signExtend 32 <<< 1))).toInt)) ∧
    (decode (box10 0b001000#6 ra rb 0b001010#6 s10) = .ok (.ld16u ra rb s10) ∧
      LoadRule (.ld16u ra rb s10) s ra (s.reg rb + (s10.signExtend 32 <<< 1)) .half
        (BitVec.ofNat 32 (s.halfAt (s.reg rb + (s10.signExtend 32 <<< 1))).toNat)) ∧
    (decode (box10 0b001000#6 ra rb 0b000000#6 s10) = .ok (.ld32 ra rb s10) ∧
      LoadRule (.ld32 ra rb s10) s ra (s.reg rb + (s10.signExtend 32 <<< 2)) .word
        (s.wordAt (s.reg rb + (s10.signExtend 32 <<< 2))))

/-- R249 to R253: the stores that add two registers, the second one scaled by the width in the SX forms. What happens where
the access cannot be made is the spec's own choice (D2, D5, D8, D9, D32; logs 7, 8, 16). -/
def Obligations.StoresIndexed : Prop :=
  ∀ (ra rb rc : Reg) (dc : BitVec 5) (s : State),
    (decode (box 0b001010#6 rc rb 0b000111#6 dc ra) = .ok (.sr8 ra rb rc) ∧
      StoreRule (.sr8 ra rb rc) s (s.reg rb + s.reg rc) .byte
        (fun t => t.byteAt (s.reg rb + s.reg rc) = (s.reg ra).extractLsb' 0 8)) ∧
    (decode (box 0b001010#6 rc rb 0b000011#6 dc ra) = .ok (.sr16 ra rb rc) ∧
      StoreRule (.sr16 ra rb rc) s (s.reg rb + s.reg rc) .half
        (fun t => t.halfAt (s.reg rb + s.reg rc) = (s.reg ra).extractLsb' 0 16)) ∧
    (decode (box 0b001010#6 rc rb 0b000001#6 dc ra) = .ok (.sr32 ra rb rc) ∧
      StoreRule (.sr32 ra rb rc) s (s.reg rb + s.reg rc) .word
        (fun t => t.wordAt (s.reg rb + s.reg rc) = s.reg ra)) ∧
    (decode (box 0b001010#6 rc rb 0b010011#6 dc ra) = .ok (.sx16 ra rb rc) ∧
      StoreRule (.sx16 ra rb rc) s (s.reg rb + (s.reg rc <<< 1)) .half
        (fun t => t.halfAt (s.reg rb + (s.reg rc <<< 1)) = (s.reg ra).extractLsb' 0 16)) ∧
    (decode (box 0b001010#6 rc rb 0b010001#6 dc ra) = .ok (.sx32 ra rb rc) ∧
      StoreRule (.sx32 ra rb rc) s (s.reg rb + (s.reg rc <<< 2)) .word
        (fun t => t.wordAt (s.reg rb + (s.reg rc <<< 2)) = s.reg ra))

/-- R254, R255, R256: the stores with a displacement, scaled by the width of the access. What happens where the access
cannot be made is the spec's own choice (D2, D5, D8, D9, D32; logs 7, 8, 16). -/
def Obligations.StoresDisplacement : Prop :=
  ∀ (ra rb : Reg) (s10 : BitVec 10) (s : State),
    (decode (box10 0b001000#6 ra rb 0b000111#6 s10) = .ok (.sd8 ra rb s10) ∧
      StoreRule (.sd8 ra rb s10) s (s.reg rb + s10.signExtend 32) .byte
        (fun t => t.byteAt (s.reg rb + s10.signExtend 32) = (s.reg ra).extractLsb' 0 8)) ∧
    (decode (box10 0b001000#6 ra rb 0b000011#6 s10) = .ok (.sd16 ra rb s10) ∧
      StoreRule (.sd16 ra rb s10) s (s.reg rb + (s10.signExtend 32 <<< 1)) .half
        (fun t => t.halfAt (s.reg rb + (s10.signExtend 32 <<< 1)) = (s.reg ra).extractLsb' 0 16)) ∧
    (decode (box10 0b001000#6 ra rb 0b000001#6 s10) = .ok (.sd32 ra rb s10) ∧
      StoreRule (.sd32 ra rb s10) s (s.reg rb + (s10.signExtend 32 <<< 2)) .word
        (fun t => t.wordAt (s.reg rb + (s10.signExtend 32 <<< 2)) = s.reg ra))

/-! ## Miscellaneous (47_misc.md) -/

/-- R271, R275: the conditional moves; where the condition fails nothing but the pc changes. -/
def Obligations.ConditionalMoves : Prop :=
  ∀ (ra rb rc : Reg) (dc : BitVec 5) (s : State),
    (decode (box 0b000010#6 rc rb 0b001001#6 dc ra) = .ok (.mvz ra rb rc) ∧
      (s.reg rb = 0#32 → CompletesWith (exec (.mvz ra rb rc) s) s ra (s.reg rc)) ∧
      (s.reg rb ≠ 0#32 → CompletesAs (exec (.mvz ra rb rc) s) s)) ∧
    (decode (box 0b000010#6 rc rb 0b001101#6 dc ra) = .ok (.mvnz ra rb rc) ∧
      (s.reg rb ≠ 0#32 → CompletesWith (exec (.mvnz ra rb rc) s) s ra (s.reg rc)) ∧
      (s.reg rb = 0#32 → CompletesAs (exec (.mvnz ra rb rc) s) s))

/-- R270: SLT then MVZ is the signed minimum, SLT then MVNZ the signed maximum, for any scratch register but R0 and
the two compared. -/
def Obligations.MinimumAndMaximum : Prop :=
  ∀ (rt ra rb : Reg) (s : State), rt ≠ ra → rt ≠ rb → rt ≠ 0#5 → ra ≠ 0#5 →
    (∃ t u : State, exec (.slt rt ra rb) s = .next t ∧ exec (.mvz ra rt rb) t = .next u ∧
      (u.reg ra).toInt = min (s.reg ra).toInt (s.reg rb).toInt ∧ u.pc = s.pc + 8#32 ∧ Frame s u [rt, ra]) ∧
    (∃ t u : State, exec (.slt rt ra rb) s = .next t ∧ exec (.mvnz ra rt rb) t = .next u ∧
      (u.reg ra).toInt = max (s.reg ra).toInt (s.reg rb).toInt ∧ u.pc = s.pc + 8#32 ∧ Frame s u [rt, ra])

/-- R272: CSB gives the `n` for which bits 31 to 31 - n are all equal and, unless n is 31, bit 30 - n differs. -/
def Obligations.CountSignBits : Prop :=
  ∀ (ra rb : Reg) (dc : BitVec 10) (s : State),
    decode (box10 0b000000#6 ra rb 0b010100#6 dc) = .ok (.csb ra rb) ∧
      ∃ n : Nat, n ≤ 31 ∧
        (∀ k : Nat, 31 - n ≤ k → k ≤ 31 → (s.reg rb).getLsbD k = (s.reg rb).getLsbD 31) ∧
        (n < 31 → (s.reg rb).getLsbD (30 - n) ≠ (s.reg rb).getLsbD 31) ∧
        CompletesWith (exec (.csb ra rb) s) s ra (BitVec.ofNat 32 n)

/-- R273: BREV reverses the four bytes; twice is the value itself. -/
def Obligations.ByteReverse : Prop :=
  ∀ (ra rb : Reg) (dc : BitVec 10) (s : State),
    decode (box10 0b000000#6 ra rb 0b011000#6 dc) = .ok (.brev ra rb) ∧
      ∃ v : Word, (∀ k : Nat, k < 32 → v.getLsbD k = (s.reg rb).getLsbD (8 * (3 - k / 8) + k % 8)) ∧
        byteReverse v = s.reg rb ∧ CompletesWith (exec (.brev ra rb) s) s ra v

/-- R274: SWAP exchanges the old `ra` with the memory word. That nothing is written if either access cannot be made is the
spec's own choice (D2, D9; logs 8, 16). -/
def Obligations.SwapExchanges : Prop :=
  ∀ (ra rb : Reg) (s10 : BitVec 10) (s : State),
    let a := s.reg rb + (s10.signExtend 32 <<< 2)
    decode (box10 0b001000#6 ra rb 0b001111#6 s10) = .ok (.swap ra rb s10) ∧
    (Accessible s .load a .word → Accessible s .store a .word →
      ∃ t : State, exec (.swap ra rb s10) s = .next t ∧
        t.reg ra = (if ra = 0#5 then 0#32 else s.wordAt a) ∧ t.wordAt a = s.reg ra ∧ t.pc = s.pc + 4#32 ∧
        SameRegs s t [ra] ∧ SameControl s t ∧ SameHidden s t ∧ SameMemoryOutside s t a 4 ∧
        (∀ x : Word, isStored t.stored x = true ↔
          isStored s.stored x = true ∨ ∃ k : Nat, k < 4 ∧ x = a + BitVec.ofNat 32 k)) ∧
    AccessStops (exec (.swap ra rb s10) s) s .load a .word ∧ AccessStops (exec (.swap ra rb s10) s) s .store a .word

/-! ## System control (48_system.md) -/

/-- R286: TRAP writes its number and enters through vector 5, in either mode. -/
def Obligations.TrapEnters : Prop :=
  ∀ (ra : Reg) (dc : BitVec 5) (s10 : BitVec 10) (s : State),
    decode (box10 0b011001#6 ra dc 0b000000#6 s10) = .ok (.trap ra s10) ∧
    (VectorReadable s 0x14#32 →
      EntersNonDebug (exec (.trap ra s10) s) s 0x14#32 (s.pc + 4#32) [ra] ∧
      ∀ t : State, exec (.trap ra s10) s = .next t →
        t.reg ra = (if ra = 0#5 then 0#32 else BitVec.ofInt 32 s10.toInt))

/-- R287: SBRK, the debug exception where SR.DE is 1, else ILLINS at its own address. -/
def Obligations.SoftwareBreak : Prop :=
  ∀ (c25 c20 : BitVec 5) (dc : BitVec 10) (s : State),
    decode (box10 0b011001#6 c25 c20 0b010011#6 dc) = .ok .sbrk ∧
    (s.de = true → VectorReadable s 0x08#32 → EntersDebug (exec .sbrk s) s 0x08#32 (s.pc + 4#32)) ∧
    (s.de = false → VectorReadable s 0x04#32 → EntersNonDebug (exec .sbrk s) s 0x04#32 s.pc [])

/-- R288: RTE restores SR bits 6:0 and the pc from the pair that SR.DS names, and changes nothing else. The address saved in
user mode is the spec's own choice (D28; log 16). -/
def Obligations.ReturnFromException : Prop :=
  ∀ (c25 c20 : BitVec 5) (dc : BitVec 10) (s : State),
    decode (box10 0b011001#6 c25 c20 0b000001#6 dc) = .ok .rte ∧
    (s.mode = .supervisor → ∃ t : State, exec .rte s = .next t ∧
      t.sr = (if s.ds then s.dsr else s.esr) &&& 0x7F#32 ∧ t.pc = (if s.ds then s.dpc else s.epc) ∧
      t.esr = s.esr ∧ t.epc = s.epc ∧ t.dsr = s.dsr ∧ t.dpc = s.dpc ∧
      SameRegs s t [] ∧ SameMemory s t ∧ t.stored = s.stored ∧ SameHidden s t) ∧
    IllegalInUserMode .rte s

/-- SLEEP waits for an interrupt; with SR.IE 0 it has no meaning; where SLEEP is the pause mode it is a no-op. R289 marks all
of it as the spec's own choice (D15; log 15). -/
def Obligations.SleepWaits : Prop :=
  ∀ (c25 c20 : BitVec 5) (dc : BitVec 10) (s : State),
    decode (box10 0b011001#6 c25 c20 0b000011#6 dc) = .ok .sleep ∧
    (s.mode = .supervisor → s.cfg.sleepPause = false → s.ie = true →
      CompletesAs (exec .sleep s) { s with sleeping := true }) ∧
    (s.mode = .supervisor → s.cfg.sleepPause = false → s.ie = false →
      exec .sleep s = .refused .sleepInterruptsDisabled) ∧
    (s.mode = .supervisor → s.cfg.sleepPause = true → CompletesAs (exec .sleep s) s) ∧
    IllegalInUserMode .sleep s

/-- While sleeping nothing but the sampling of the request happens, and a request wakes the unit into INT with the address
after the SLEEP: the spec's own choice (R289, R351; D15, D20; logs 4, 15). -/
def Obligations.SleepingIdlesUntilInterrupt : Prop :=
  ∀ s : State, s.sleeping = true → s.ie = true →
    (s.intRequests.headD false = false → step s = .next (Boundary s)) ∧
    (s.intRequests.headD false = true → VectorReadable s 0x10#32 →
      EntersNonDebug (step s) { Boundary s with sleeping := false } 0x10#32 s.pc [])

/-- R291: RCR reads each of the five control registers. The address saved in user mode is the spec's own choice (D28; log 16). -/
def Obligations.ReadControlRegister : Prop :=
  ∀ (ra : Reg) (d1 d2 cr : BitVec 5) (s : State),
    decode (box 0b011001#6 ra d1 0b000100#6 d2 cr) = .ok (.rcr ra cr) ∧
    (s.mode = .supervisor →
      CompletesWith (exec (.rcr ra 0#5) s) s ra (s.sr &&& 0x7F#32) ∧
      CompletesWith (exec (.rcr ra 1#5) s) s ra s.esr ∧ CompletesWith (exec (.rcr ra 2#5) s) s ra s.epc ∧
      CompletesWith (exec (.rcr ra 5#5) s) s ra s.dsr ∧ CompletesWith (exec (.rcr ra 6#5) s) s ra s.dpc) ∧
    IllegalInUserMode (.rcr ra cr) s

/-- R292: WCR writes each of the five control registers; of SR it writes bits 6:4 and 2:0 only. That ESR, EPC, DSR and DPC are
32 bits of plain storage, all of them written, is the spec's own choice (R34, R36; D16; log 24), as is the address saved in
user mode (D28; log 16). -/
def Obligations.WriteControlRegister : Prop :=
  ∀ (ra : Reg) (d1 d2 cr : BitVec 5) (s : State),
    decode (box 0b011001#6 ra d1 0b000101#6 d2 cr) = .ok (.wcr ra cr) ∧
    (s.mode = .supervisor → cr ∈ [0#5, 1#5, 2#5, 5#5, 6#5] →
      ∃ t : State, exec (.wcr ra cr) s = .next t ∧ t.pc = s.pc + 4#32 ∧
        t.sr = (if cr = 0#5 then (s.sr &&& 0x08#32) ||| (s.reg ra &&& 0x77#32) else s.sr) ∧
        t.esr = (if cr = 1#5 then s.reg ra else s.esr) ∧ t.epc = (if cr = 2#5 then s.reg ra else s.epc) ∧
        t.dsr = (if cr = 5#5 then s.reg ra else s.dsr) ∧ t.dpc = (if cr = 6#5 then s.reg ra else s.dpc) ∧
        SameRegs s t [] ∧ SameMemory s t ∧ t.stored = s.stored ∧ SameHidden s t) ∧
    IllegalInUserMode (.wcr ra cr) s

/-- In supervisor mode an index that names no control register has no meaning, neither read as 0 nor ignored: the spec's own
choice (R290; D12; log 13). -/
def Obligations.UndefinedControlRegister : Prop :=
  ∀ (ra : Reg) (cr : BitVec 5) (s : State), s.mode = .supervisor → cr ∉ [0#5, 1#5, 2#5, 5#5, 6#5] →
    exec (.rcr ra cr) s = .refused .undefinedControlRegister ∧
      exec (.wcr ra cr) s = .refused .undefinedControlRegister

/-- CLD takes the platform's answer, whatever it is (a free value), into `ra`; the checks come in the order of R293. The
platform's oracle and the refusals are the spec's own choice (D13), the history of uses the model's (logs 5, 26). The
field the box draws as zero is part of the encoding clause. -/
def Obligations.LoadModuleRegister : Prop :=
  ∀ (ra : Reg) (id : BitVec 3) (number : BitVec 10) (s : State),
    decode (box10 0b011001#6 ra (0#2 ++ id) 0b001000#6 number) = .ok (.cld ra id number) ∧
    (number.toNat ≤ 511 → s.mode = .supervisor → s.cfg.moduleRegs.contains (id, number.setWidth 9) = true →
      CompletesWith (exec (.cld ra id number) s)
        { s with moduleLog := .read id (number.setWidth 9) :: s.moduleLog } ra
        (Config.moduleRead s.moduleLog id (number.setWidth 9))) ∧
    (511 < number.toNat → exec (.cld ra id number) s = .refused .moduleOperandOutOfRange) ∧
    (number.toNat ≤ 511 → s.mode = .user → exec (.cld ra id number) s = .refused .modulePrivilegeNotStated) ∧
    (number.toNat ≤ 511 → s.mode = .supervisor → s.cfg.moduleRegs.contains (id, number.setWidth 9) = false →
      exec (.cld ra id number) s = .refused .moduleRegisterAbsent)

/-- CST hands `ra` to the platform and changes no general or control register (R294). The platform's oracle and the refusals
are the spec's own choice (D13), that nothing else changes is the model's (logs 5, 26). -/
def Obligations.StoreModuleRegister : Prop :=
  ∀ (ra : Reg) (id : BitVec 3) (number : BitVec 10) (s : State),
    decode (box10 0b011001#6 ra (0#2 ++ id) 0b001001#6 number) = .ok (.cst ra id number) ∧
    (number.toNat ≤ 511 → s.mode = .supervisor → s.cfg.moduleRegs.contains (id, number.setWidth 9) = true →
      CompletesAs (exec (.cst ra id number) s)
        { s with moduleLog := .write id (number.setWidth 9) (s.reg ra) :: s.moduleLog }) ∧
    (511 < number.toNat → exec (.cst ra id number) s = .refused .moduleOperandOutOfRange) ∧
    (number.toNat ≤ 511 → s.mode = .user → exec (.cst ra id number) s = .refused .modulePrivilegeNotStated) ∧
    (number.toNat ≤ 511 → s.mode = .supervisor → s.cfg.moduleRegs.contains (id, number.setWidth 9) = false →
      exec (.cst ra id number) s = .refused .moduleRegisterAbsent)

/-- ITLB and DTLB send their command and address and write nothing; privileged (R295, R296). The platform's oracle is the
spec's own choice (D14), that a defined command has no effect the integer unit sees is the model's (log 6). -/
def Obligations.TlbCommands : Prop :=
  ∀ (cmd : BitVec 4) (rb : Reg) (dc : BitVec 10) (s : State),
    (decode (box10 0b000000#6 (0#1 ++ cmd) rb 0b001101#6 dc) = .ok (.itlb cmd rb) ∧
      (∀ p : Bool, s.mode = .supervisor → findCommand s.cfg .itlb cmd = some ⟨.itlb, cmd, p⟩ →
        CompletesAs (exec (.itlb cmd rb) s) { s with commandLog := ⟨.itlb, cmd, s.reg rb⟩ :: s.commandLog }) ∧
      (s.mode = .supervisor → findCommand s.cfg .itlb cmd = none →
        exec (.itlb cmd rb) s = .refused (.commandNotDefined .itlb)) ∧
      IllegalInUserMode (.itlb cmd rb) s) ∧
    (decode (box10 0b000000#6 (0#1 ++ cmd) rb 0b001001#6 dc) = .ok (.dtlb cmd rb) ∧
      (∀ p : Bool, s.mode = .supervisor → findCommand s.cfg .dtlb cmd = some ⟨.dtlb, cmd, p⟩ →
        CompletesAs (exec (.dtlb cmd rb) s) { s with commandLog := ⟨.dtlb, cmd, s.reg rb⟩ :: s.commandLog }) ∧
      (s.mode = .supervisor → findCommand s.cfg .dtlb cmd = none →
        exec (.dtlb cmd rb) s = .refused (.commandNotDefined .dtlb)) ∧
      IllegalInUserMode (.dtlb cmd rb) s)

/-- ICACHE and DCACHE send their command and the scaled address; in user mode a privileged command raises ILLINS (R297, R298).
The platform's oracle is the spec's own choice (D14), that a defined command has no effect the integer unit sees is the
model's (log 6). -/
def Obligations.CacheCommands : Prop :=
  ∀ (cmd : BitVec 4) (rb : Reg) (s10 : BitVec 10) (s : State),
    (decode (box10 0b000000#6 (0#1 ++ cmd) rb 0b000101#6 s10) = .ok (.icache cmd rb s10) ∧
      (∀ p : Bool, s.mode = .supervisor ∨ p = false → findCommand s.cfg .icache cmd = some ⟨.icache, cmd, p⟩ →
        CompletesAs (exec (.icache cmd rb s10) s)
          { s with commandLog := ⟨.icache, cmd, s.reg rb + (s10.signExtend 32 <<< 2)⟩ :: s.commandLog }) ∧
      (findCommand s.cfg .icache cmd = none →
        exec (.icache cmd rb s10) s = .refused (.commandNotDefined .icache)) ∧
      (findCommand s.cfg .icache cmd = some ⟨.icache, cmd, true⟩ → IllegalInUserMode (.icache cmd rb s10) s)) ∧
    (decode (box10 0b000000#6 (0#1 ++ cmd) rb 0b000001#6 s10) = .ok (.dcache cmd rb s10) ∧
      (∀ p : Bool, s.mode = .supervisor ∨ p = false → findCommand s.cfg .dcache cmd = some ⟨.dcache, cmd, p⟩ →
        CompletesAs (exec (.dcache cmd rb s10) s)
          { s with commandLog := ⟨.dcache, cmd, s.reg rb + (s10.signExtend 32 <<< 2)⟩ :: s.commandLog }) ∧
      (findCommand s.cfg .dcache cmd = none →
        exec (.dcache cmd rb s10) s = .refused (.commandNotDefined .dcache)) ∧
      (findCommand s.cfg .dcache cmd = some ⟨.dcache, cmd, true⟩ → IllegalInUserMode (.dcache cmd rb s10) s))

/-! ## The step, exceptions and privilege (60_exceptions.md) -/

/-- Where nothing stands in the way, the step is the meaning of the instruction that the word at the pc encodes (R11, R63,
R100, R118). One step samples the interrupt request once, which is the spec's own choice (D6, D20; log 4). -/
def Obligations.StepRunsTheInstruction : Prop :=
  ∀ (s : State) (i : Instr), FetchesAt s → decode (s.wordAt s.pc) = .ok i → step s = exec i (Boundary s)

/-- Exactly the operator pairs outside the tables are unassigned, and executing one raises ILLINS with its own address, in
either mode: the spec's own choice (R119, R349; D10, D8; log 16). -/
def Obligations.UnassignedRaisesIllins : Prop :=
  (∀ w : Word, decode w = .error .unassigned ↔ isAssigned (op1 w) (op2 w) = false) ∧
  ∀ s : State, FetchesAt s → isAssigned (op1 (s.wordAt s.pc)) (op2 (s.wordAt s.pc)) = false →
    VectorReadable s 0x04#32 → EntersNonDebug (step s) (Boundary s) 0x04#32 s.pc []

/-- A 1 in a field drawn as zero has no meaning: the spec's own choice (R111; D11; log 14). ITLB and DTLB check the mode
first (R295, R296). -/
def Obligations.MustBeZeroFields : Prop :=
  ∀ s : State, FetchesAt s →
    (op1 (s.wordAt s.pc) = 0b000000#6 → op2 (s.wordAt s.pc) ∈ [0b000100#6, 0b001000#6, 0b001100#6] →
      f9 (s.wordAt s.pc) ≠ 0#5 → step s = .refused .nonZeroMustBeZero) ∧
    (op1 (s.wordAt s.pc) = 0b000000#6 → op2 (s.wordAt s.pc) ∈ [0b000001#6, 0b000101#6] →
      (s.wordAt s.pc).getLsbD 25 = true → step s = .refused .nonZeroMustBeZero) ∧
    (op1 (s.wordAt s.pc) = 0b011001#6 → op2 (s.wordAt s.pc) ∈ [0b001000#6, 0b001001#6] →
      (s.wordAt s.pc).extractLsb' 19 2 ≠ 0#2 → step s = .refused .nonZeroMustBeZero) ∧
    (op1 (s.wordAt s.pc) = 0b000000#6 → op2 (s.wordAt s.pc) ∈ [0b001001#6, 0b001101#6] →
      (s.wordAt s.pc).getLsbD 25 = true →
      (s.mode = .supervisor → step s = .refused .nonZeroMustBeZero) ∧
      (s.mode = .user → VectorReadable s 0x04#32 → EntersNonDebug (step s) (Boundary s) 0x04#32 s.pc []))

/-- A fetch that faults raises IFAULT with the fetch address; a misaligned pc is refused, or raises IFAULT under the
parameter: the spec's own choice (R67, R25, R350; D3, D5, D8; logs 7, 9, 16). -/
def Obligations.FetchFaults : Prop :=
  ∀ s : State, (s.intRequests.headD false = false ∨ s.ie = false) → s.sleeping = false →
    (isAligned s.pc .word = true → accessFault s.cfg .fetch s.pc .word s.mode = true → VectorReadable s 0x18#32 →
      EntersNonDebug (step s) (Boundary s) 0x18#32 s.pc []) ∧
    (isAligned s.pc .word = false → s.cfg.misalignedPc = .refuse → step s = .refused .misalignedPc) ∧
    (isAligned s.pc .word = false → s.cfg.misalignedPc = .ifault → VectorReadable s 0x18#32 →
      EntersNonDebug (step s) (Boundary s) 0x18#32 s.pc [])

/-- The fetch of a byte the program has stored to has no meaning unless the parameter makes it coherent: the spec's own
choice (R74; D7; log 10). -/
def Obligations.FetchOfModifiedCode : Prop :=
  ∀ (s : State) (k : Nat), (s.intRequests.headD false = false ∨ s.ie = false) → s.sleeping = false →
    isAligned s.pc .word = true → accessFault s.cfg .fetch s.pc .word s.mode = false → s.cfg.ifetchCoherent = false → k < 4 →
    isStored s.stored (s.pc + BitVec.ofNat 32 k) = true → step s = .refused .fetchOfModifiedCode

/-- A request with SR.IE set is taken at the boundary, before the fetch: the spec's own choice (R351; D20, D8, D32; logs 4,
16). -/
def Obligations.InterruptAtBoundary : Prop :=
  ∀ s : State, s.intRequests.headD false = true → s.ie = true → VectorReadable s 0x10#32 →
    EntersNonDebug (step s) { Boundary s with sleeping := false } 0x10#32 s.pc []

/-- Whatever exception was entered, no interrupt is taken at the next boundary (R342 (b), R28). That every entry clears SR.IE
is the spec's own choice where no operation block is printed (D30, D32; log 16). -/
def Obligations.EntryMasksInterrupts : Prop :=
  ∀ (e : Exc) (ret : Word) (s t : State), enter e ret s = .next t → t.takesInterrupt = false ∧ t.mode = .supervisor

/-- An entry whose vector read faults has no meaning, whatever the exception, power-on reset included: the spec's own choice
(R343, R356, R400; D23, D24; logs 17, 18). -/
def Obligations.FaultInVectorRead : Prop :=
  (∀ (e : Exc) (ret : Word) (s : State),
    accessFault s.cfg .load (s.vectorBase e + e.offset) .word .supervisor = true →
      enter e ret s = .refused .faultDuringExceptionEntry) ∧
  ∀ (cfg : Config) (mem : Memory), accessFault cfg .load 0x80000000#32 .word .supervisor = true →
    powerOnReset cfg mem = .refused .faultDuringExceptionEntry

/-- R344: the vector base, for host mode and DBOOT and for each value of SR.VB. -/
def Obligations.VectorBase : Prop :=
  ∀ (e : Exc) (s : State),
    s.vectorBase e = (if s.cfg.hostMode = true ∨ e = .dboot then 0xEC000000#32
      else BitVec.ofNat 32 (0x80000000 + s.vb.toNat * 0x04000000))

/-- From R286 and R288: an RTE at the end of a TRAP's handler, with the saved pair as the entry left it, resumes after the
TRAP with the status the TRAP found. -/
def Obligations.TrapThenReturn : Prop :=
  ∀ (ra : Reg) (s10 : BitVec 10) (s t u : State), exec (.trap ra s10) s = .next t →
    u.esr = t.esr → u.epc = t.epc → u.sr = t.sr →
    ∃ v : State, exec .rte u = .next v ∧ v.pc = s.pc + 4#32 ∧ v.readSr = s.readSr

/-- A step leaves user mode only by an exception entry, and leaves supervisor mode only by RTE (R359). What an entry saves and
clears is, where no operation block is printed, the spec's own choice (D32; log 16). -/
def Obligations.ModeTransitions : Prop :=
  ∀ s t : State, step s = .next t →
    (s.mode = .user → t.mode = .supervisor →
      (t.esr = s.readSr ∧ t.ds = false ∨ t.dsr = s.readSr ∧ t.ds = true) ∧ t.ie = false ∧
        ∃ e : Exc, t.pc = s.wordAt (s.vectorBase e + e.offset)) ∧
    (s.mode = .supervisor → t.mode = .user →
      FetchesAt s ∧ decode (s.wordAt s.pc) = .ok .rte ∧ t.sr = (if s.ds then s.dsr else s.esr) &&& 0x7F#32)

/-- A step that stays in user mode changes no control register, uses no module control register, sends no TLB command and no
cache command that the platform makes privileged, and does not put the unit to sleep (R360). It reads no control register
either: whatever ESR, EPC, DSR, DPC and the bits of SR but for the mode and the interrupt enable hold, the step does the same
to everything else. CLD and CST in user mode are refused by the spec's own choice (D13; log 26), the command oracle is D14
(log 6). -/
def Obligations.UserModeIsConfined : Prop :=
  ∀ s t : State, s.sleeping = false → step s = .next t → s.mode = .user → t.mode = .user →
    (SameControl s t ∧ t.moduleLog = s.moduleLog ∧ t.sleeping = false ∧
      (t.commandLog = s.commandLog ∨ ∃ (u : CommandUnit) (cmd : BitVec 4) (a : Word),
        (u = .icache ∨ u = .dcache) ∧ findCommand s.cfg u cmd = some ⟨u, cmd, false⟩ ∧
          t.commandLog = ⟨u, cmd, a⟩ :: s.commandLog)) ∧
    ∀ c : State, c.mode = .user → c.ie = s.ie → step (withControl s c) = .next (withControl t c)

/-- The byte order and every other parameter are fixed for a whole run. For the byte order that is the spec's own choice (R63;
D1; log 2); that the AccessFault predicate (log 7, unsafe where faults change during a run) and the platform's lists of module
registers and commands (logs 5, 6) stay as they are is the model's. -/
def Obligations.ConfigurationIsFixed : Prop :=
  ∀ s t : State, step s = .next t → t.cfg = s.cfg

/-! ## State, reset and the invariant (10_state.md, 70_reset_and_hazards.md) -/

/-- R21: R0 reads as 0 and ignores writes; any other register holds what was last written, and the rest keep theirs. -/
def Obligations.RegisterFile : Prop :=
  ∀ (s : State) (r q : Reg) (v : Word),
    s.reg 0#5 = 0#32 ∧ s.setReg 0#5 v = s ∧ (r ≠ 0#5 → (s.setReg r v).reg r = v) ∧
      (q ≠ r → (s.setReg r v).reg q = s.reg q)

/-- R43: the state after power-on reset, for every implementation on which the reset vector entry can be read and every launch
memory, but for the four registers the spec leaves undefined (log 3). The sleeping state is off (R400). -/
def Obligations.PowerOnReset : Prop :=
  ∀ (cfg : Config) (mem : Memory), accessFault cfg .load 0x80000000#32 .word .supervisor = false →
    ∃ t : State, powerOnReset cfg mem = .next t ∧ (∀ r : Reg, t.reg r = 0#32) ∧ t.sr = 0x00000008#32 ∧
      t.mode = .supervisor ∧ t.ie = false ∧ t.de = false ∧ t.ds = false ∧ t.vb = 0#3 ∧
      t.pc = t.wordAt 0x80000000#32 ∧ t.sleeping = false ∧ t.mem = mem ∧ t.cfg = cfg

/-- The model's invariant holds after power-on reset, on every implementation and with every launch memory in canonical form
(D29; logs 1, 18), and so in the model's reset state, which has none. -/
def Obligations.InvariantAtReset : Prop :=
  (∀ (cfg : Config) (mem : Memory), Memory.wf mem = true →
    State.Inv (State.powerOn cfg mem) ∧ ∀ t : State, powerOnReset cfg mem = .next t → State.Inv t) ∧
  State.Inv State.reset

/-- Every step keeps the model's invariant: the canonical forms of memory and of the stored addresses (the model's, logs 1 and
10), the reserved bits of SR 0 (R33), a sleeping unit in supervisor mode with interrupts enabled (D15, log 15). -/
def Obligations.StepKeepsInvariant : Prop :=
  ∀ s t : State, State.Inv s → step s = .next t → State.Inv t

/-! ## Encoding (30_encoding.md) -/

/-- The words of a few instructions, written out from their boxes. -/
def Obligations.KnownWords : Prop :=
  decode 0b000010_00010_00001_000000_00000_00011#32 = .ok (.add 3#5 1#5 2#5) ∧
    decode 0b000000_00011_00001_000000_1100110100#32 = .ok (.addi 3#5 1#5 0x334#10) ∧
    decode 0b000101_00001_111111110110111001100#32 = .ok (.j 1#5 0x1fedcc#21) ∧
    decode 0b000110_00010_00001_000110_0001000000#32 = .ok (.beq 1#5 2#5 0x40#10) ∧
    decode 0b001010_00010_00001_000111_00000_00011#32 = .ok (.sr8 3#5 1#5 2#5) ∧
    decode 0b011001_00010_00000_000101_00000_00010#32 = .ok (.wcr 2#5 2#5)

/-- The encoder and the decoder agree on every instruction, with every operand at every value. -/
def Obligations.DecodeOfEncode : Prop :=
  ∀ i : Instr, decode (encode i) = .ok i

/-- A word decodes exactly to the instruction of the opcode-table row it matches, every bit of whose fields is in the operands,
and matches no other row: the spec's own derivation (R118). -/
def Obligations.DecodeIsTheOpcodeTable : Prop :=
  (∀ (w : Word) (i : Instr), decode w = .ok i →
    w &&& (opcodeRow i).mask = (opcodeRow i).pattern ∧
      encode i = w &&& ((opcodeRow i).mask ||| (opcodeRow i).fields)) ∧
  (∀ (w : Word) (j : Instr), w &&& (opcodeRow j).mask = (opcodeRow j).pattern →
    ∃ i : Instr, decode w = .ok i ∧ opcodeRow i = opcodeRow j)

/-- The bits a row gives no field and no fixed value are not looked at: the spec's own derivation (R111; log 25). -/
def Obligations.DontCareFields : Prop :=
  ∀ (w w' : Word) (i : Instr), decode w = .ok i →
    w' &&& ((opcodeRow i).mask ||| (opcodeRow i).fields) = w &&& ((opcodeRow i).mask ||| (opcodeRow i).fields) →
    decode w' = .ok i

/-! ## The assembler's operators (49_abi_assembler.md) -/

/-- The operators of R330 in pairs: `@h21` with `@l11` is the whole value; `@eh21` with `@ho11` is the whole of an even value;
`@h21` with `@o11` is the whole of a multiple of 4. The pairing is the spec's own derivation ("`@eh21` is the partner of
`@ho11`", "[derived: from the two definitions]"), and `@eh21` is read as 90_conflicts.md C14 settles it (DEDUCED, log 27). -/
def Obligations.AssemblerOperators : Prop :=
  ∀ v : Word,
    ((opH21 v).setWidth 32 <<< 11) ||| (opL11 v).setWidth 32 = v ∧
    (v &&& 1#32 = 0#32 → ((opEh21 v).setWidth 32 <<< 11) + ((opHo11 v).signExtend 32 <<< 1) = v) ∧
    (v &&& 3#32 = 0#32 → ((opH21 v).setWidth 32 <<< 11) + ((opO11 v).setWidth 32 <<< 2) = v)
end

