-- ==== Sys2Proof/Laws/Decode.lean ====
section
/-! SUPPORT. The slices of an encoded word: reading a field back, layout by layout, and the encoding boxes as the same
words. -/

namespace Sys2Proof

/-- A field reads back from its own place. -/
theorem slice_placeAt {n lo : Nat} (v : BitVec n) (h : lo + n ≤ 32) : (placeAt lo v).extractLsb' lo n = v := by
  ext j hj
  simp only [placeAt, BitVec.getElem_extractLsb', BitVec.getLsbD_shiftLeft, BitVec.getLsbD_setWidth]
  have h1 : lo + j < 32 := by omega
  have h2 : lo + j - lo = j := by omega
  have h3 : ¬ lo + j < lo := by omega
  have h4 : j < 32 := by omega
  simp [h1, h2, h4, hj]

/-- A field leaves a slice that does not meet it zero. -/
theorem slice_placeAt_apart {n lo n' lo' : Nat} (v : BitVec n') (h : lo + n ≤ lo' ∨ lo' + n' ≤ lo) :
    (placeAt lo' v).extractLsb' lo n = 0#n := by
  ext j hj
  simp only [placeAt, BitVec.getElem_extractLsb', BitVec.getLsbD_shiftLeft, BitVec.getLsbD_setWidth, BitVec.getElem_zero]
  rcases h with h | h
  · have h1 : lo + j < lo' := by omega
    simp [h1]
  · have h1 : v.getLsbD (lo + j - lo') = false := BitVec.getLsbD_of_ge _ _ (by omega)
    simp [h1]

/-- A slice of a field that holds it whole is the field at its place in the slice. -/
theorem slice_placeAt_wide {n lo n' lo' : Nat} (v : BitVec n') (h : lo ≤ lo') (h2 : lo + n ≤ 32) :
    (placeAt lo' v).extractLsb' lo n = v.setWidth n <<< (lo' - lo) := by
  ext j hj
  simp only [placeAt, BitVec.getElem_extractLsb', BitVec.getLsbD_shiftLeft, BitVec.getLsbD_setWidth, BitVec.getElem_shiftLeft,
    BitVec.getElem_setWidth]
  have h1 : lo + j < 32 := by omega
  by_cases hj2 : j < lo' - lo
  · have : lo + j < lo' := by omega
    simp [hj2, this]
  · have h3 : ¬ lo + j < lo' := by omega
    have h4 : lo + j - lo' = j - (lo' - lo) := by omega
    have h5 : j - (lo' - lo) < 32 := by omega
    simp [hj2, h1, h3, h4, h5]

theorem slice_or {n lo : Nat} (x y : Word) : (x ||| y).extractLsb' lo n = x.extractLsb' lo n ||| y.extractLsb' lo n := by
  ext j hj
  simp

/-- A mask that is clear over a field takes it away. -/
theorem placeAt_and_clear {n lo : Nat} (v : BitVec n) (m : Word) (h : m.extractLsb' lo n = 0#n) : placeAt lo v &&& m = 0#32 := by
  apply BitVec.eq_of_getLsbD_eq
  intro i hi
  simp only [placeAt, BitVec.getLsbD_and, BitVec.getLsbD_shiftLeft, BitVec.getLsbD_setWidth, BitVec.getLsbD_zero]
  by_cases h1 : i < lo
  · simp [h1]
  · by_cases h2 : i - lo < n
    · have h3 := congrArg (fun x => BitVec.getLsbD x (i - lo)) h
      have h4 : lo + (i - lo) = i := by omega
      simp only [BitVec.getLsbD_extractLsb', h2, decide_true, Bool.true_and, h4, BitVec.getLsbD_zero] at h3
      simp [h3]
    · rw [BitVec.getLsbD_of_ge v (i - lo) (by omega)]
      simp

/-- A mask that is set over a field keeps it. -/
theorem placeAt_and_set {n lo : Nat} (v : BitVec n) (m : Word) (h : m.extractLsb' lo n = BitVec.allOnes n) :
    placeAt lo v &&& m = placeAt lo v := by
  apply BitVec.eq_of_getLsbD_eq
  intro i hi
  simp only [placeAt, BitVec.getLsbD_and, BitVec.getLsbD_shiftLeft, BitVec.getLsbD_setWidth]
  by_cases h1 : i < lo
  · simp [h1]
  · by_cases h2 : i - lo < n
    · have h3 := congrArg (fun x => BitVec.getLsbD x (i - lo)) h
      have h4 : lo + (i - lo) = i := by omega
      simp only [BitVec.getLsbD_extractLsb', h2, decide_true, Bool.true_and, h4, BitVec.getLsbD_allOnes] at h3
      simp [h3]
    · rw [BitVec.getLsbD_of_ge v (i - lo) (by omega)]
      simp

/-! ## The slices of the boxes of R109 -/

@[simp] theorem op1_box (o1 : BitVec 6) (x y : BitVec 5) (o2 : BitVec 6) (p q : BitVec 5) : op1 (Machine.box o1 x y o2 p q) = o1 := by
  apply BitVec.eq_of_getLsbD_eq
  intro j hj
  rw [op1, BitVec.getLsbD_extractLsb']
  unfold Machine.box
  simp only [BitVec.getLsbD_append]
  interval_cases j <;> simp

@[simp] theorem f25_box (o1 : BitVec 6) (x y : BitVec 5) (o2 : BitVec 6) (p q : BitVec 5) : f25 (Machine.box o1 x y o2 p q) = x := by
  apply BitVec.eq_of_getLsbD_eq
  intro j hj
  rw [f25, BitVec.getLsbD_extractLsb']
  unfold Machine.box
  simp only [BitVec.getLsbD_append]
  interval_cases j <;> simp

@[simp] theorem f20_box (o1 : BitVec 6) (x y : BitVec 5) (o2 : BitVec 6) (p q : BitVec 5) : f20 (Machine.box o1 x y o2 p q) = y := by
  apply BitVec.eq_of_getLsbD_eq
  intro j hj
  rw [f20, BitVec.getLsbD_extractLsb']
  unfold Machine.box
  simp only [BitVec.getLsbD_append]
  interval_cases j <;> simp

@[simp] theorem op2_box (o1 : BitVec 6) (x y : BitVec 5) (o2 : BitVec 6) (p q : BitVec 5) : op2 (Machine.box o1 x y o2 p q) = o2 := by
  apply BitVec.eq_of_getLsbD_eq
  intro j hj
  rw [op2, BitVec.getLsbD_extractLsb']
  unfold Machine.box
  simp only [BitVec.getLsbD_append]
  interval_cases j <;> simp

@[simp] theorem f9_box (o1 : BitVec 6) (x y : BitVec 5) (o2 : BitVec 6) (p q : BitVec 5) : f9 (Machine.box o1 x y o2 p q) = p := by
  apply BitVec.eq_of_getLsbD_eq
  intro j hj
  rw [f9, BitVec.getLsbD_extractLsb']
  unfold Machine.box
  simp only [BitVec.getLsbD_append]
  interval_cases j <;> simp

@[simp] theorem f4_box (o1 : BitVec 6) (x y : BitVec 5) (o2 : BitVec 6) (p q : BitVec 5) : f4 (Machine.box o1 x y o2 p q) = q := by
  apply BitVec.eq_of_getLsbD_eq
  intro j hj
  rw [f4, BitVec.getLsbD_extractLsb']
  unfold Machine.box
  simp only [BitVec.getLsbD_append]
  interval_cases j <;> simp

@[simp] theorem op1_box10 (o1 : BitVec 6) (x y : BitVec 5) (o2 : BitVec 6) (n : BitVec 10) : op1 (Machine.box10 o1 x y o2 n) = o1 := by
  apply BitVec.eq_of_getLsbD_eq
  intro j hj
  rw [op1, BitVec.getLsbD_extractLsb']
  unfold Machine.box10
  simp only [BitVec.getLsbD_append]
  interval_cases j <;> simp

@[simp] theorem f25_box10 (o1 : BitVec 6) (x y : BitVec 5) (o2 : BitVec 6) (n : BitVec 10) : f25 (Machine.box10 o1 x y o2 n) = x := by
  apply BitVec.eq_of_getLsbD_eq
  intro j hj
  rw [f25, BitVec.getLsbD_extractLsb']
  unfold Machine.box10
  simp only [BitVec.getLsbD_append]
  interval_cases j <;> simp

@[simp] theorem f20_box10 (o1 : BitVec 6) (x y : BitVec 5) (o2 : BitVec 6) (n : BitVec 10) : f20 (Machine.box10 o1 x y o2 n) = y := by
  apply BitVec.eq_of_getLsbD_eq
  intro j hj
  rw [f20, BitVec.getLsbD_extractLsb']
  unfold Machine.box10
  simp only [BitVec.getLsbD_append]
  interval_cases j <;> simp

@[simp] theorem op2_box10 (o1 : BitVec 6) (x y : BitVec 5) (o2 : BitVec 6) (n : BitVec 10) : op2 (Machine.box10 o1 x y o2 n) = o2 := by
  apply BitVec.eq_of_getLsbD_eq
  intro j hj
  rw [op2, BitVec.getLsbD_extractLsb']
  unfold Machine.box10
  simp only [BitVec.getLsbD_append]
  interval_cases j <;> simp

@[simp] theorem i10_box10 (o1 : BitVec 6) (x y : BitVec 5) (o2 : BitVec 6) (n : BitVec 10) : i10 (Machine.box10 o1 x y o2 n) = n := by
  apply BitVec.eq_of_getLsbD_eq
  intro j hj
  rw [i10, BitVec.getLsbD_extractLsb']
  unfold Machine.box10
  simp only [BitVec.getLsbD_append]
  interval_cases j <;> simp

@[simp] theorem op1_box16 (o1 : BitVec 6) (x y : BitVec 5) (n : BitVec 16) : op1 (Machine.box16 o1 x y n) = o1 := by
  apply BitVec.eq_of_getLsbD_eq
  intro j hj
  rw [op1, BitVec.getLsbD_extractLsb']
  unfold Machine.box16
  simp only [BitVec.getLsbD_append]
  interval_cases j <;> simp

@[simp] theorem f25_box16 (o1 : BitVec 6) (x y : BitVec 5) (n : BitVec 16) : f25 (Machine.box16 o1 x y n) = x := by
  apply BitVec.eq_of_getLsbD_eq
  intro j hj
  rw [f25, BitVec.getLsbD_extractLsb']
  unfold Machine.box16
  simp only [BitVec.getLsbD_append]
  interval_cases j <;> simp

@[simp] theorem f20_box16 (o1 : BitVec 6) (x y : BitVec 5) (n : BitVec 16) : f20 (Machine.box16 o1 x y n) = y := by
  apply BitVec.eq_of_getLsbD_eq
  intro j hj
  rw [f20, BitVec.getLsbD_extractLsb']
  unfold Machine.box16
  simp only [BitVec.getLsbD_append]
  interval_cases j <;> simp

@[simp] theorem i16_box16 (o1 : BitVec 6) (x y : BitVec 5) (n : BitVec 16) : i16 (Machine.box16 o1 x y n) = n := by
  apply BitVec.eq_of_getLsbD_eq
  intro j hj
  rw [i16, BitVec.getLsbD_extractLsb']
  unfold Machine.box16
  simp only [BitVec.getLsbD_append]
  interval_cases j <;> simp

@[simp] theorem op1_box21 (o1 : BitVec 6) (x : BitVec 5) (n : BitVec 21) : op1 (Machine.box21 o1 x n) = o1 := by
  apply BitVec.eq_of_getLsbD_eq
  intro j hj
  rw [op1, BitVec.getLsbD_extractLsb']
  unfold Machine.box21
  simp only [BitVec.getLsbD_append]
  interval_cases j <;> simp

@[simp] theorem f25_box21 (o1 : BitVec 6) (x : BitVec 5) (n : BitVec 21) : f25 (Machine.box21 o1 x n) = x := by
  apply BitVec.eq_of_getLsbD_eq
  intro j hj
  rw [f25, BitVec.getLsbD_extractLsb']
  unfold Machine.box21
  simp only [BitVec.getLsbD_append]
  interval_cases j <;> simp

@[simp] theorem i21_box21 (o1 : BitVec 6) (x : BitVec 5) (n : BitVec 21) : i21 (Machine.box21 o1 x n) = n := by
  apply BitVec.eq_of_getLsbD_eq
  intro j hj
  rw [i21, BitVec.getLsbD_extractLsb']
  unfold Machine.box21
  simp only [BitVec.getLsbD_append]
  interval_cases j <;> simp


/-- The zero bits and the module ID of a `00ID` cell (R104). -/
theorem mcr_box10 (o1 : BitVec 6) (x : BitVec 5) (z : BitVec 2) (id : BitVec 3) (o2 : BitVec 6) (n : BitVec 10) :
    mcrZero (Machine.box10 o1 x (z ++ id) o2 n) = z ∧ mcrId (Machine.box10 o1 x (z ++ id) o2 n) = id := by
  constructor <;> (apply BitVec.eq_of_getLsbD_eq; intro j hj)
  · rw [mcrZero, BitVec.getLsbD_extractLsb']
    unfold Machine.box10
    simp only [BitVec.getLsbD_append]
    interval_cases j <;> simp
  · rw [mcrId, BitVec.getLsbD_extractLsb']
    unfold Machine.box10
    simp only [BitVec.getLsbD_append]
    interval_cases j <;> simp

/-- The zero bit and the command of a `0CMD` cell (R104). -/
theorem cmd_box10 (o1 : BitVec 6) (z : BitVec 1) (cmd : BitVec 4) (y : BitVec 5) (o2 : BitVec 6) (n : BitVec 10) :
    cmdZero (Machine.box10 o1 (z ++ cmd) y o2 n) = z ∧ cmdCode (Machine.box10 o1 (z ++ cmd) y o2 n) = cmd := by
  constructor <;> (apply BitVec.eq_of_getLsbD_eq; intro j hj)
  · rw [cmdZero, BitVec.getLsbD_extractLsb']
    unfold Machine.box10
    simp only [BitVec.getLsbD_append]
    interval_cases j <;> simp
  · rw [cmdCode, BitVec.getLsbD_extractLsb']
    unfold Machine.box10
    simp only [BitVec.getLsbD_append]
    interval_cases j <;> simp

end Sys2Proof
end

