-- ==== Sys2Proof/Laws/Memory.lean ====
section
/-! SUPPORT. Memory: a read after a write, the canonical form, the byte orders, the list of stored addresses. -/

namespace Sys2Proof.Machine

open Sys2Proof

/-! ## Reads after writes (R62) -/

theorem Memory.byteAt_insertByte (m : Memory) (a x : Nat) (b : Byte) :
    (m.insertByte a b).byteAt x = if x = a then b else m.byteAt x := by
  induction m with
  | nil => simp [Memory.insertByte, Memory.byteAt, eq_comm]
  | cons c rest ih =>
    simp only [Memory.insertByte]
    split
    · simp [Memory.byteAt, eq_comm]
    · split
      · next h => subst h; by_cases hx : x = c.1 <;> simp [Memory.byteAt, hx, eq_comm]
      · next h => by_cases hx : c.1 = x <;> simp_all [Memory.byteAt]

theorem Memory.byteAt_filter (m : Memory) (a x : Nat) :
    Memory.byteAt (m.filter (fun c => c.1 != a)) x = if x = a then unlistedByte else m.byteAt x := by
  induction m with
  | nil => simp [Memory.byteAt]
  | cons c rest ih =>
    by_cases hc : c.1 = a
    · by_cases hx : x = a <;> simp_all [Memory.byteAt, eq_comm]
    · by_cases hx : c.1 = x <;> simp_all [Memory.byteAt]

/-- The byte at an address after one byte was written. -/
theorem Memory.byteAt_setByte (m : Memory) (a x : Nat) (b : Byte) :
    (m.setByte a b).byteAt x = if x = a then b else m.byteAt x := by
  unfold Memory.setByte
  split
  · next h => rw [Memory.byteAt_filter, h]
  · exact Memory.byteAt_insertByte m a x b

/-- The same over 32-bit addresses. -/
@[simp] theorem Memory.byte_put (m : Memory) (a x : Word) (b : Byte) :
    (m.put a b).byte x = if x = a then b else m.byte x := by
  simp [Memory.byte, Memory.put, Memory.byteAt_setByte, ← BitVec.toNat_inj]

/-! ## The canonical form -/

theorem Memory.wf_cons (c : Host.Cell) (rest : Memory) :
    Memory.wf (c :: rest) = true ↔
      c.1 < 2 ^ 32 ∧ c.2 ≠ unlistedByte ∧ (∀ d ∈ rest, c.1 < d.1) ∧ Memory.wf rest = true := by
  simp [Memory.wf, and_assoc]

theorem Memory.mem_insertByte (m : Memory) (a : Nat) (b : Byte) (d : Host.Cell) :
    d ∈ m.insertByte a b → d = (a, b) ∨ d ∈ m := by
  induction m with
  | nil => simp [Memory.insertByte]
  | cons c rest ih =>
    simp only [Memory.insertByte]
    split
    · simp
    · split
      · simp only [List.mem_cons]; tauto
      · simp only [List.mem_cons]; tauto

theorem Memory.wf_insertByte {m : Memory} {a : Nat} {b : Byte} (h : m.wf = true) (ha : a < 2 ^ 32)
    (hb : b ≠ unlistedByte) : (m.insertByte a b).wf = true := by
  induction m with
  | nil => simpa [Memory.insertByte, Memory.wf, hb] using ha
  | cons c rest ih =>
    obtain ⟨h1, h2, h3, h4⟩ := (Memory.wf_cons c rest).1 h
    simp only [Memory.insertByte]
    split
    · next hlt =>
      refine (Memory.wf_cons _ _).2 ⟨ha, hb, fun d hd => ?_, h⟩
      rcases List.mem_cons.1 hd with rfl | hd
      · exact hlt
      · exact hlt.trans (h3 d hd)
    · split
      · next heq => exact (Memory.wf_cons _ _).2 ⟨ha, hb, fun d hd => heq ▸ h3 d hd, h4⟩
      · next hlt hne =>
        refine (Memory.wf_cons _ _).2 ⟨h1, h2, fun d hd => ?_, ih h4⟩
        rcases Memory.mem_insertByte rest a b d hd with rfl | hd
        · show c.1 < a
          omega
        · exact h3 d hd

theorem Memory.wf_filter {m : Memory} (p : Host.Cell → Bool) (h : m.wf = true) : Memory.wf (m.filter p) = true := by
  induction m with
  | nil => rfl
  | cons c rest ih =>
    obtain ⟨h1, h2, h3, h4⟩ := (Memory.wf_cons c rest).1 h
    rw [List.filter_cons]
    split
    · exact (Memory.wf_cons _ _).2 ⟨h1, h2, fun d hd => h3 d (List.mem_filter.1 hd).1, ih h4⟩
    · exact ih h4

/-- A write of one byte keeps the canonical form. -/
theorem Memory.wf_setByte {m : Memory} {a : Nat} (b : Byte) (h : m.wf = true) (ha : a < 2 ^ 32) :
    (m.setByte a b).wf = true := by
  unfold Memory.setByte
  split
  · exact Memory.wf_filter _ h
  · next hb => exact Memory.wf_insertByte h ha hb

theorem Memory.wf_put {m : Memory} (a : Word) (b : Byte) (h : m.wf = true) : (m.put a b).wf = true :=
  Memory.wf_setByte b h a.isLt

/-- Placing a word keeps the canonical form. -/
theorem Memory.wf_placeWord {m : Memory} (e : Endian) (a v : Word) (h : m.wf = true) :
    (m.placeWord e a v).wf = true :=
  Memory.wf_put _ _ (Memory.wf_put _ _ (Memory.wf_put _ _ (Memory.wf_put _ _ h)))

/-! ## Byte orders (R62) -/

theorem slice_append_slice (v : Word) :
    v.extractLsb' 24 8 ++ v.extractLsb' 16 8 ++ v.extractLsb' 8 8 ++ v.extractLsb' 0 8 = v := by
  rw [BitVec.extractLsb'_append_extractLsb'_eq_extractLsb' (by rfl),
    BitVec.extractLsb'_append_extractLsb'_eq_extractLsb' (by rfl),
    BitVec.extractLsb'_append_extractLsb'_eq_extractLsb' (by rfl)]
  exact BitVec.extractLsb'_eq_self

theorem half_append_slice (v : Half) : v.extractLsb' 8 8 ++ v.extractLsb' 0 8 = v := by
  rw [BitVec.extractLsb'_append_extractLsb'_eq_extractLsb' (by rfl)]
  exact BitVec.extractLsb'_eq_self

/-- The bytes of a word, read in the same order, are the word. -/
@[simp] theorem wordOfBytes_byteOfWord (e : Endian) (v : Word) :
    wordOfBytes e (byteOfWord e v 0) (byteOfWord e v 1) (byteOfWord e v 2) (byteOfWord e v 3) = v := by
  cases e <;> exact slice_append_slice v

/-- The bytes of a halfword, read in the same order, are the halfword. -/
@[simp] theorem halfOfBytes_byteOfHalf (e : Endian) (v : Half) :
    halfOfBytes e (byteOfHalf e v 0) (byteOfHalf e v 1) = v := by
  cases e <;> exact half_append_slice v

/-- The four addresses of a word differ. -/
theorem word_addresses_ne (a : Word) :
    a ≠ a + 1#32 ∧ a ≠ a + 2#32 ∧ a ≠ a + 3#32 ∧ a + 1#32 ≠ a + 2#32 ∧ a + 1#32 ≠ a + 3#32 ∧ a + 2#32 ≠ a + 3#32 := by
  refine ⟨?_, ?_, ?_, ?_, ?_, ?_⟩ <;> bv_omega

/-- A word placed at an address reads back there. -/
theorem Memory.word_placeWord (m : Memory) (e : Endian) (a v : Word) : (m.placeWord e a v).word e a = v := by
  obtain ⟨h1, h2, h3, h4, h5, h6⟩ := word_addresses_ne a
  simp [Memory.word, Memory.placeWord, h1, h2, h3, h4, h5, h6]

/-! ## The addresses stored to (R74) -/

theorem mem_insertAddress (l : List Nat) (a x : Nat) : x ∈ insertAddress l a ↔ x = a ∨ x ∈ l := by
  induction l with
  | nil => simp [insertAddress]
  | cons c rest ih =>
    simp only [insertAddress]
    split
    · simp
    · split
      · next h => subst h; simp
      · simp only [List.mem_cons, ih]; tauto

theorem addressesWf_cons (x : Nat) (rest : List Nat) :
    addressesWf (x :: rest) = true ↔ x < 2 ^ 32 ∧ (∀ y ∈ rest, x < y) ∧ addressesWf rest = true := by
  simp [addressesWf, and_assoc]

/-- What is marked as stored to after one more address is noted. -/
@[simp] theorem isStored_noteStored (l : List Nat) (a x : Word) :
    isStored (noteStored l a) x = (decide (x = a) || isStored l x) := by
  rw [Bool.eq_iff_iff]
  simp [isStored, noteStored, mem_insertAddress, ← BitVec.toNat_inj]

/-- Noting an address keeps the list rising. -/
theorem addressesWf_insertAddress {l : List Nat} {a : Nat} (h : addressesWf l = true) (ha : a < 2 ^ 32) :
    addressesWf (insertAddress l a) = true := by
  induction l with
  | nil => simpa [insertAddress, addressesWf] using ha
  | cons c rest ih =>
    obtain ⟨h1, h2, h3⟩ := (addressesWf_cons c rest).1 h
    simp only [insertAddress]
    split
    · next hlt =>
      refine (addressesWf_cons _ _).2 ⟨ha, fun y hy => ?_, h⟩
      rcases List.mem_cons.1 hy with rfl | hy
      · exact hlt
      · exact hlt.trans (h2 y hy)
    · split
      · exact h
      · next hlt hne =>
        refine (addressesWf_cons _ _).2 ⟨h1, fun y hy => ?_, ih h3⟩
        rcases (mem_insertAddress rest a y).1 hy with rfl | hy
        · omega
        · exact h2 y hy

theorem addressesWf_noteStored {l : List Nat} (a : Word) (h : addressesWf l = true) :
    addressesWf (noteStored l a) = true :=
  addressesWf_insertAddress h a.isLt

/-- Forgetting addresses keeps the list rising. -/
theorem addressesWf_forgetStored {l : List Nat} (a : Word) (h : addressesWf l = true) :
    addressesWf (forgetStored l a) = true := by
  unfold forgetStored
  induction l with
  | nil => rfl
  | cons x rest ih =>
    obtain ⟨h1, h2, h3⟩ := (addressesWf_cons x rest).1 h
    rw [List.filter_cons]
    split
    · exact (addressesWf_cons _ _).2 ⟨h1, fun y hy => h2 y (List.mem_filter.1 hy).1, ih h3⟩
    · exact ih h3

end Sys2Proof.Machine
end

