-- ==== Sys2Proof/Laws/State.lean ====
section
/-! SUPPORT. One lemma per field per update of the state, so that no proof unfolds a record update. -/

namespace Sys2Proof.Machine

open Sys2Proof

variable (s : State)

@[simp] theorem State.setReg_pc (r : Reg) (v : Word) : (s.setReg r v).pc = s.pc := by unfold State.setReg; split <;> rfl
@[simp] theorem State.setReg_sr (r : Reg) (v : Word) : (s.setReg r v).sr = s.sr := by unfold State.setReg; split <;> rfl
@[simp] theorem State.setReg_esr (r : Reg) (v : Word) : (s.setReg r v).esr = s.esr := by unfold State.setReg; split <;> rfl
@[simp] theorem State.setReg_epc (r : Reg) (v : Word) : (s.setReg r v).epc = s.epc := by unfold State.setReg; split <;> rfl
@[simp] theorem State.setReg_dsr (r : Reg) (v : Word) : (s.setReg r v).dsr = s.dsr := by unfold State.setReg; split <;> rfl
@[simp] theorem State.setReg_dpc (r : Reg) (v : Word) : (s.setReg r v).dpc = s.dpc := by unfold State.setReg; split <;> rfl
@[simp] theorem State.setReg_sleeping (r : Reg) (v : Word) : (s.setReg r v).sleeping = s.sleeping := by unfold State.setReg; split <;> rfl
@[simp] theorem State.setReg_intRequests (r : Reg) (v : Word) : (s.setReg r v).intRequests = s.intRequests := by unfold State.setReg; split <;> rfl
@[simp] theorem State.setReg_mem (r : Reg) (v : Word) : (s.setReg r v).mem = s.mem := by unfold State.setReg; split <;> rfl
@[simp] theorem State.setReg_stored (r : Reg) (v : Word) : (s.setReg r v).stored = s.stored := by unfold State.setReg; split <;> rfl
@[simp] theorem State.setReg_moduleLog (r : Reg) (v : Word) : (s.setReg r v).moduleLog = s.moduleLog := by unfold State.setReg; split <;> rfl
@[simp] theorem State.setReg_commandLog (r : Reg) (v : Word) : (s.setReg r v).commandLog = s.commandLog := by unfold State.setReg; split <;> rfl
@[simp] theorem State.setReg_cfg (r : Reg) (v : Word) : (s.setReg r v).cfg = s.cfg := by unfold State.setReg; split <;> rfl

@[simp] theorem State.jump_regs (t : Word) : (s.jump t).regs = s.regs := rfl
@[simp] theorem State.jump_sr (t : Word) : (s.jump t).sr = s.sr := rfl
@[simp] theorem State.jump_esr (t : Word) : (s.jump t).esr = s.esr := rfl
@[simp] theorem State.jump_epc (t : Word) : (s.jump t).epc = s.epc := rfl
@[simp] theorem State.jump_dsr (t : Word) : (s.jump t).dsr = s.dsr := rfl
@[simp] theorem State.jump_dpc (t : Word) : (s.jump t).dpc = s.dpc := rfl
@[simp] theorem State.jump_sleeping (t : Word) : (s.jump t).sleeping = s.sleeping := rfl
@[simp] theorem State.jump_intRequests (t : Word) : (s.jump t).intRequests = s.intRequests := rfl
@[simp] theorem State.jump_mem (t : Word) : (s.jump t).mem = s.mem := rfl
@[simp] theorem State.jump_stored (t : Word) : (s.jump t).stored = s.stored := rfl
@[simp] theorem State.jump_moduleLog (t : Word) : (s.jump t).moduleLog = s.moduleLog := rfl
@[simp] theorem State.jump_commandLog (t : Word) : (s.jump t).commandLog = s.commandLog := rfl
@[simp] theorem State.jump_cfg (t : Word) : (s.jump t).cfg = s.cfg := rfl

@[simp] theorem State.advance_regs : (s.advance).regs = s.regs := rfl
@[simp] theorem State.advance_sr : (s.advance).sr = s.sr := rfl
@[simp] theorem State.advance_esr : (s.advance).esr = s.esr := rfl
@[simp] theorem State.advance_epc : (s.advance).epc = s.epc := rfl
@[simp] theorem State.advance_dsr : (s.advance).dsr = s.dsr := rfl
@[simp] theorem State.advance_dpc : (s.advance).dpc = s.dpc := rfl
@[simp] theorem State.advance_sleeping : (s.advance).sleeping = s.sleeping := rfl
@[simp] theorem State.advance_intRequests : (s.advance).intRequests = s.intRequests := rfl
@[simp] theorem State.advance_mem : (s.advance).mem = s.mem := rfl
@[simp] theorem State.advance_stored : (s.advance).stored = s.stored := rfl
@[simp] theorem State.advance_moduleLog : (s.advance).moduleLog = s.moduleLog := rfl
@[simp] theorem State.advance_commandLog : (s.advance).commandLog = s.commandLog := rfl
@[simp] theorem State.advance_cfg : (s.advance).cfg = s.cfg := rfl

@[simp] theorem State.writeSr_regs (v : Word) : (s.writeSr v).regs = s.regs := rfl
@[simp] theorem State.writeSr_pc (v : Word) : (s.writeSr v).pc = s.pc := rfl
@[simp] theorem State.writeSr_esr (v : Word) : (s.writeSr v).esr = s.esr := rfl
@[simp] theorem State.writeSr_epc (v : Word) : (s.writeSr v).epc = s.epc := rfl
@[simp] theorem State.writeSr_dsr (v : Word) : (s.writeSr v).dsr = s.dsr := rfl
@[simp] theorem State.writeSr_dpc (v : Word) : (s.writeSr v).dpc = s.dpc := rfl
@[simp] theorem State.writeSr_sleeping (v : Word) : (s.writeSr v).sleeping = s.sleeping := rfl
@[simp] theorem State.writeSr_intRequests (v : Word) : (s.writeSr v).intRequests = s.intRequests := rfl
@[simp] theorem State.writeSr_mem (v : Word) : (s.writeSr v).mem = s.mem := rfl
@[simp] theorem State.writeSr_stored (v : Word) : (s.writeSr v).stored = s.stored := rfl
@[simp] theorem State.writeSr_moduleLog (v : Word) : (s.writeSr v).moduleLog = s.moduleLog := rfl
@[simp] theorem State.writeSr_commandLog (v : Word) : (s.writeSr v).commandLog = s.commandLog := rfl
@[simp] theorem State.writeSr_cfg (v : Word) : (s.writeSr v).cfg = s.cfg := rfl

@[simp] theorem State.sampled_regs : (s.sampled).regs = s.regs := rfl
@[simp] theorem State.sampled_pc : (s.sampled).pc = s.pc := rfl
@[simp] theorem State.sampled_sr : (s.sampled).sr = s.sr := rfl
@[simp] theorem State.sampled_esr : (s.sampled).esr = s.esr := rfl
@[simp] theorem State.sampled_epc : (s.sampled).epc = s.epc := rfl
@[simp] theorem State.sampled_dsr : (s.sampled).dsr = s.dsr := rfl
@[simp] theorem State.sampled_dpc : (s.sampled).dpc = s.dpc := rfl
@[simp] theorem State.sampled_sleeping : (s.sampled).sleeping = s.sleeping := rfl
@[simp] theorem State.sampled_mem : (s.sampled).mem = s.mem := rfl
@[simp] theorem State.sampled_stored : (s.sampled).stored = s.stored := rfl
@[simp] theorem State.sampled_moduleLog : (s.sampled).moduleLog = s.moduleLog := rfl
@[simp] theorem State.sampled_commandLog : (s.sampled).commandLog = s.commandLog := rfl
@[simp] theorem State.sampled_cfg : (s.sampled).cfg = s.cfg := rfl

@[simp] theorem State.storeByte_regs (a : Word) (b : Byte) : (s.storeByte a b).regs = s.regs := rfl
@[simp] theorem State.storeByte_pc (a : Word) (b : Byte) : (s.storeByte a b).pc = s.pc := rfl
@[simp] theorem State.storeByte_sr (a : Word) (b : Byte) : (s.storeByte a b).sr = s.sr := rfl
@[simp] theorem State.storeByte_esr (a : Word) (b : Byte) : (s.storeByte a b).esr = s.esr := rfl
@[simp] theorem State.storeByte_epc (a : Word) (b : Byte) : (s.storeByte a b).epc = s.epc := rfl
@[simp] theorem State.storeByte_dsr (a : Word) (b : Byte) : (s.storeByte a b).dsr = s.dsr := rfl
@[simp] theorem State.storeByte_dpc (a : Word) (b : Byte) : (s.storeByte a b).dpc = s.dpc := rfl
@[simp] theorem State.storeByte_sleeping (a : Word) (b : Byte) : (s.storeByte a b).sleeping = s.sleeping := rfl
@[simp] theorem State.storeByte_intRequests (a : Word) (b : Byte) : (s.storeByte a b).intRequests = s.intRequests := rfl
@[simp] theorem State.storeByte_moduleLog (a : Word) (b : Byte) : (s.storeByte a b).moduleLog = s.moduleLog := rfl
@[simp] theorem State.storeByte_commandLog (a : Word) (b : Byte) : (s.storeByte a b).commandLog = s.commandLog := rfl
@[simp] theorem State.storeByte_cfg (a : Word) (b : Byte) : (s.storeByte a b).cfg = s.cfg := rfl

@[simp] theorem State.storeHalf_regs (a : Word) (v : Half) : (s.storeHalf a v).regs = s.regs := by simp only [State.storeHalf, State.storeByte_regs]
@[simp] theorem State.storeHalf_pc (a : Word) (v : Half) : (s.storeHalf a v).pc = s.pc := by simp only [State.storeHalf, State.storeByte_pc]
@[simp] theorem State.storeHalf_sr (a : Word) (v : Half) : (s.storeHalf a v).sr = s.sr := by simp only [State.storeHalf, State.storeByte_sr]
@[simp] theorem State.storeHalf_esr (a : Word) (v : Half) : (s.storeHalf a v).esr = s.esr := by simp only [State.storeHalf, State.storeByte_esr]
@[simp] theorem State.storeHalf_epc (a : Word) (v : Half) : (s.storeHalf a v).epc = s.epc := by simp only [State.storeHalf, State.storeByte_epc]
@[simp] theorem State.storeHalf_dsr (a : Word) (v : Half) : (s.storeHalf a v).dsr = s.dsr := by simp only [State.storeHalf, State.storeByte_dsr]
@[simp] theorem State.storeHalf_dpc (a : Word) (v : Half) : (s.storeHalf a v).dpc = s.dpc := by simp only [State.storeHalf, State.storeByte_dpc]
@[simp] theorem State.storeHalf_sleeping (a : Word) (v : Half) : (s.storeHalf a v).sleeping = s.sleeping := by simp only [State.storeHalf, State.storeByte_sleeping]
@[simp] theorem State.storeHalf_intRequests (a : Word) (v : Half) : (s.storeHalf a v).intRequests = s.intRequests := by simp only [State.storeHalf, State.storeByte_intRequests]
@[simp] theorem State.storeHalf_moduleLog (a : Word) (v : Half) : (s.storeHalf a v).moduleLog = s.moduleLog := by simp only [State.storeHalf, State.storeByte_moduleLog]
@[simp] theorem State.storeHalf_commandLog (a : Word) (v : Half) : (s.storeHalf a v).commandLog = s.commandLog := by simp only [State.storeHalf, State.storeByte_commandLog]
@[simp] theorem State.storeHalf_cfg (a : Word) (v : Half) : (s.storeHalf a v).cfg = s.cfg := by simp only [State.storeHalf, State.storeByte_cfg]

@[simp] theorem State.storeWord_regs (a v : Word) : (s.storeWord a v).regs = s.regs := by simp only [State.storeWord, State.storeByte_regs]
@[simp] theorem State.storeWord_pc (a v : Word) : (s.storeWord a v).pc = s.pc := by simp only [State.storeWord, State.storeByte_pc]
@[simp] theorem State.storeWord_sr (a v : Word) : (s.storeWord a v).sr = s.sr := by simp only [State.storeWord, State.storeByte_sr]
@[simp] theorem State.storeWord_esr (a v : Word) : (s.storeWord a v).esr = s.esr := by simp only [State.storeWord, State.storeByte_esr]
@[simp] theorem State.storeWord_epc (a v : Word) : (s.storeWord a v).epc = s.epc := by simp only [State.storeWord, State.storeByte_epc]
@[simp] theorem State.storeWord_dsr (a v : Word) : (s.storeWord a v).dsr = s.dsr := by simp only [State.storeWord, State.storeByte_dsr]
@[simp] theorem State.storeWord_dpc (a v : Word) : (s.storeWord a v).dpc = s.dpc := by simp only [State.storeWord, State.storeByte_dpc]
@[simp] theorem State.storeWord_sleeping (a v : Word) : (s.storeWord a v).sleeping = s.sleeping := by simp only [State.storeWord, State.storeByte_sleeping]
@[simp] theorem State.storeWord_intRequests (a v : Word) : (s.storeWord a v).intRequests = s.intRequests := by simp only [State.storeWord, State.storeByte_intRequests]
@[simp] theorem State.storeWord_moduleLog (a v : Word) : (s.storeWord a v).moduleLog = s.moduleLog := by simp only [State.storeWord, State.storeByte_moduleLog]
@[simp] theorem State.storeWord_commandLog (a v : Word) : (s.storeWord a v).commandLog = s.commandLog := by simp only [State.storeWord, State.storeByte_commandLog]
@[simp] theorem State.storeWord_cfg (a v : Word) : (s.storeWord a v).cfg = s.cfg := by simp only [State.storeWord, State.storeByte_cfg]

@[simp] theorem State.send_regs (u : CommandUnit) (cmd : BitVec 4) (a : Word) : (s.send u cmd a).regs = s.regs := rfl
@[simp] theorem State.send_pc (u : CommandUnit) (cmd : BitVec 4) (a : Word) : (s.send u cmd a).pc = s.pc := rfl
@[simp] theorem State.send_sr (u : CommandUnit) (cmd : BitVec 4) (a : Word) : (s.send u cmd a).sr = s.sr := rfl
@[simp] theorem State.send_esr (u : CommandUnit) (cmd : BitVec 4) (a : Word) : (s.send u cmd a).esr = s.esr := rfl
@[simp] theorem State.send_epc (u : CommandUnit) (cmd : BitVec 4) (a : Word) : (s.send u cmd a).epc = s.epc := rfl
@[simp] theorem State.send_dsr (u : CommandUnit) (cmd : BitVec 4) (a : Word) : (s.send u cmd a).dsr = s.dsr := rfl
@[simp] theorem State.send_dpc (u : CommandUnit) (cmd : BitVec 4) (a : Word) : (s.send u cmd a).dpc = s.dpc := rfl
@[simp] theorem State.send_sleeping (u : CommandUnit) (cmd : BitVec 4) (a : Word) : (s.send u cmd a).sleeping = s.sleeping := rfl
@[simp] theorem State.send_intRequests (u : CommandUnit) (cmd : BitVec 4) (a : Word) : (s.send u cmd a).intRequests = s.intRequests := rfl
@[simp] theorem State.send_mem (u : CommandUnit) (cmd : BitVec 4) (a : Word) : (s.send u cmd a).mem = s.mem := rfl
@[simp] theorem State.send_stored (u : CommandUnit) (cmd : BitVec 4) (a : Word) : (s.send u cmd a).stored = s.stored := rfl
@[simp] theorem State.send_moduleLog (u : CommandUnit) (cmd : BitVec 4) (a : Word) : (s.send u cmd a).moduleLog = s.moduleLog := rfl
@[simp] theorem State.send_cfg (u : CommandUnit) (cmd : BitVec 4) (a : Word) : (s.send u cmd a).cfg = s.cfg := rfl

@[simp] theorem State.saveContext_regs (e : Exc) (ret : Word) : (s.saveContext e ret).regs = s.regs := by unfold State.saveContext; split <;> rfl
@[simp] theorem State.saveContext_pc (e : Exc) (ret : Word) : (s.saveContext e ret).pc = s.pc := by unfold State.saveContext; split <;> rfl
@[simp] theorem State.saveContext_sleeping (e : Exc) (ret : Word) : (s.saveContext e ret).sleeping = s.sleeping := by unfold State.saveContext; split <;> rfl
@[simp] theorem State.saveContext_intRequests (e : Exc) (ret : Word) : (s.saveContext e ret).intRequests = s.intRequests := by unfold State.saveContext; split <;> rfl
@[simp] theorem State.saveContext_mem (e : Exc) (ret : Word) : (s.saveContext e ret).mem = s.mem := by unfold State.saveContext; split <;> rfl
@[simp] theorem State.saveContext_stored (e : Exc) (ret : Word) : (s.saveContext e ret).stored = s.stored := by unfold State.saveContext; split <;> rfl
@[simp] theorem State.saveContext_moduleLog (e : Exc) (ret : Word) : (s.saveContext e ret).moduleLog = s.moduleLog := by unfold State.saveContext; split <;> rfl
@[simp] theorem State.saveContext_commandLog (e : Exc) (ret : Word) : (s.saveContext e ret).commandLog = s.commandLog := by unfold State.saveContext; split <;> rfl
@[simp] theorem State.saveContext_cfg (e : Exc) (ret : Word) : (s.saveContext e ret).cfg = s.cfg := by unfold State.saveContext; split <;> rfl

@[simp] theorem State.returnFromException_regs : (s.returnFromException).regs = s.regs := by unfold State.returnFromException; split <;> rfl
@[simp] theorem State.returnFromException_esr : (s.returnFromException).esr = s.esr := by unfold State.returnFromException; split <;> rfl
@[simp] theorem State.returnFromException_epc : (s.returnFromException).epc = s.epc := by unfold State.returnFromException; split <;> rfl
@[simp] theorem State.returnFromException_dsr : (s.returnFromException).dsr = s.dsr := by unfold State.returnFromException; split <;> rfl
@[simp] theorem State.returnFromException_dpc : (s.returnFromException).dpc = s.dpc := by unfold State.returnFromException; split <;> rfl
@[simp] theorem State.returnFromException_sleeping : (s.returnFromException).sleeping = s.sleeping := by unfold State.returnFromException; split <;> rfl
@[simp] theorem State.returnFromException_intRequests : (s.returnFromException).intRequests = s.intRequests := by unfold State.returnFromException; split <;> rfl
@[simp] theorem State.returnFromException_mem : (s.returnFromException).mem = s.mem := by unfold State.returnFromException; split <;> rfl
@[simp] theorem State.returnFromException_stored : (s.returnFromException).stored = s.stored := by unfold State.returnFromException; split <;> rfl
@[simp] theorem State.returnFromException_moduleLog : (s.returnFromException).moduleLog = s.moduleLog := by unfold State.returnFromException; split <;> rfl
@[simp] theorem State.returnFromException_commandLog : (s.returnFromException).commandLog = s.commandLog := by unfold State.returnFromException; split <;> rfl
@[simp] theorem State.returnFromException_cfg : (s.returnFromException).cfg = s.cfg := by unfold State.returnFromException; split <;> rfl

@[simp] theorem State.jump_pc (t : Word) : (s.jump t).pc = t := rfl
@[simp] theorem State.advance_pc : s.advance.pc = s.pc + 4#32 := rfl
@[simp] theorem State.writeSr_sr (v : Word) : (s.writeSr v).sr = v &&& srStorage := rfl
@[simp] theorem State.sampled_intRequests : s.sampled.intRequests = s.intRequests.tail := rfl
@[simp] theorem State.send_commandLog (u : CommandUnit) (cmd : BitVec 4) (a : Word) :
    (s.send u cmd a).commandLog = ⟨u, cmd, a⟩ :: s.commandLog := rfl
@[simp] theorem State.storeByte_mem (a : Word) (b : Byte) : (s.storeByte a b).mem = s.mem.put a b := rfl
@[simp] theorem State.storeByte_stored (a : Word) (b : Byte) :
    (s.storeByte a b).stored = noteStored s.stored a := rfl

/-! The accessors over the updates that leave their fields alone. -/

@[simp] theorem State.reg_jump (t : Word) (q : Reg) : (s.jump t).reg q = s.reg q := rfl
@[simp] theorem State.reg_advance (q : Reg) : (s.advance).reg q = s.reg q := rfl
@[simp] theorem State.reg_writeSr (v : Word) (q : Reg) : (s.writeSr v).reg q = s.reg q := rfl
@[simp] theorem State.reg_sampled (q : Reg) : (s.sampled).reg q = s.reg q := rfl
@[simp] theorem State.reg_storeByte (a : Word) (b : Byte) (q : Reg) : (s.storeByte a b).reg q = s.reg q := rfl
@[simp] theorem State.reg_storeHalf (a : Word) (v : Half) (q : Reg) : (s.storeHalf a v).reg q = s.reg q := by simp only [State.storeHalf, State.reg_storeByte]
@[simp] theorem State.reg_storeWord (a v : Word) (q : Reg) : (s.storeWord a v).reg q = s.reg q := by simp only [State.storeWord, State.reg_storeByte]
@[simp] theorem State.reg_send (u : CommandUnit) (cmd : BitVec 4) (a : Word) (q : Reg) : (s.send u cmd a).reg q = s.reg q := rfl
@[simp] theorem State.reg_saveContext (e : Exc) (ret : Word) (q : Reg) : (s.saveContext e ret).reg q = s.reg q := by unfold State.saveContext; split <;> rfl
@[simp] theorem State.reg_returnFromException (q : Reg) : (s.returnFromException).reg q = s.reg q := by unfold State.returnFromException; split <;> rfl

@[simp] theorem State.readSr_setReg (r : Reg) (v : Word) : (s.setReg r v).readSr = s.readSr := by unfold State.setReg; split <;> rfl
@[simp] theorem State.readSr_jump (t : Word) : (s.jump t).readSr = s.readSr := rfl
@[simp] theorem State.readSr_advance : (s.advance).readSr = s.readSr := rfl
@[simp] theorem State.readSr_sampled : (s.sampled).readSr = s.readSr := rfl
@[simp] theorem State.readSr_storeByte (a : Word) (b : Byte) : (s.storeByte a b).readSr = s.readSr := rfl
@[simp] theorem State.readSr_storeHalf (a : Word) (v : Half) : (s.storeHalf a v).readSr = s.readSr := by simp only [State.storeHalf, State.readSr_storeByte]
@[simp] theorem State.readSr_storeWord (a v : Word) : (s.storeWord a v).readSr = s.readSr := by simp only [State.storeWord, State.readSr_storeByte]
@[simp] theorem State.readSr_send (u : CommandUnit) (cmd : BitVec 4) (a : Word) : (s.send u cmd a).readSr = s.readSr := rfl

@[simp] theorem State.byteAt_setReg (r : Reg) (v : Word) (x : Word) : (s.setReg r v).byteAt x = s.byteAt x := by unfold State.setReg; split <;> rfl
@[simp] theorem State.byteAt_jump (t : Word) (x : Word) : (s.jump t).byteAt x = s.byteAt x := rfl
@[simp] theorem State.byteAt_advance (x : Word) : (s.advance).byteAt x = s.byteAt x := rfl
@[simp] theorem State.byteAt_writeSr (v : Word) (x : Word) : (s.writeSr v).byteAt x = s.byteAt x := rfl
@[simp] theorem State.byteAt_sampled (x : Word) : (s.sampled).byteAt x = s.byteAt x := rfl
@[simp] theorem State.byteAt_send (u : CommandUnit) (cmd : BitVec 4) (a : Word) (x : Word) : (s.send u cmd a).byteAt x = s.byteAt x := rfl
@[simp] theorem State.byteAt_saveContext (e : Exc) (ret : Word) (x : Word) : (s.saveContext e ret).byteAt x = s.byteAt x := by unfold State.saveContext; split <;> rfl
@[simp] theorem State.byteAt_returnFromException (x : Word) : (s.returnFromException).byteAt x = s.byteAt x := by unfold State.returnFromException; split <;> rfl

@[simp] theorem State.halfAt_setReg (r : Reg) (v : Word) (x : Word) : (s.setReg r v).halfAt x = s.halfAt x := by unfold State.setReg; split <;> rfl
@[simp] theorem State.halfAt_jump (t : Word) (x : Word) : (s.jump t).halfAt x = s.halfAt x := rfl
@[simp] theorem State.halfAt_advance (x : Word) : (s.advance).halfAt x = s.halfAt x := rfl
@[simp] theorem State.halfAt_writeSr (v : Word) (x : Word) : (s.writeSr v).halfAt x = s.halfAt x := rfl
@[simp] theorem State.halfAt_sampled (x : Word) : (s.sampled).halfAt x = s.halfAt x := rfl
@[simp] theorem State.halfAt_send (u : CommandUnit) (cmd : BitVec 4) (a : Word) (x : Word) : (s.send u cmd a).halfAt x = s.halfAt x := rfl
@[simp] theorem State.halfAt_saveContext (e : Exc) (ret : Word) (x : Word) : (s.saveContext e ret).halfAt x = s.halfAt x := by unfold State.saveContext; split <;> rfl
@[simp] theorem State.halfAt_returnFromException (x : Word) : (s.returnFromException).halfAt x = s.halfAt x := by unfold State.returnFromException; split <;> rfl

@[simp] theorem State.wordAt_setReg (r : Reg) (v : Word) (x : Word) : (s.setReg r v).wordAt x = s.wordAt x := by unfold State.setReg; split <;> rfl
@[simp] theorem State.wordAt_jump (t : Word) (x : Word) : (s.jump t).wordAt x = s.wordAt x := rfl
@[simp] theorem State.wordAt_advance (x : Word) : (s.advance).wordAt x = s.wordAt x := rfl
@[simp] theorem State.wordAt_writeSr (v : Word) (x : Word) : (s.writeSr v).wordAt x = s.wordAt x := rfl
@[simp] theorem State.wordAt_sampled (x : Word) : (s.sampled).wordAt x = s.wordAt x := rfl
@[simp] theorem State.wordAt_send (u : CommandUnit) (cmd : BitVec 4) (a : Word) (x : Word) : (s.send u cmd a).wordAt x = s.wordAt x := rfl
@[simp] theorem State.wordAt_saveContext (e : Exc) (ret : Word) (x : Word) : (s.saveContext e ret).wordAt x = s.wordAt x := by unfold State.saveContext; split <;> rfl
@[simp] theorem State.wordAt_returnFromException (x : Word) : (s.returnFromException).wordAt x = s.wordAt x := by unfold State.returnFromException; split <;> rfl

@[simp] theorem State.mode_setReg (r : Reg) (v : Word) : (s.setReg r v).mode = s.mode := by unfold State.setReg; split <;> rfl
@[simp] theorem State.mode_jump (t : Word) : (s.jump t).mode = s.mode := rfl
@[simp] theorem State.mode_advance : (s.advance).mode = s.mode := rfl
@[simp] theorem State.mode_sampled : (s.sampled).mode = s.mode := rfl
@[simp] theorem State.mode_storeByte (a : Word) (b : Byte) : (s.storeByte a b).mode = s.mode := rfl
@[simp] theorem State.mode_storeHalf (a : Word) (v : Half) : (s.storeHalf a v).mode = s.mode := by simp only [State.storeHalf, State.mode_storeByte]
@[simp] theorem State.mode_storeWord (a v : Word) : (s.storeWord a v).mode = s.mode := by simp only [State.storeWord, State.mode_storeByte]
@[simp] theorem State.mode_send (u : CommandUnit) (cmd : BitVec 4) (a : Word) : (s.send u cmd a).mode = s.mode := rfl

@[simp] theorem State.ie_setReg (r : Reg) (v : Word) : (s.setReg r v).ie = s.ie := by unfold State.setReg; split <;> rfl
@[simp] theorem State.ie_jump (t : Word) : (s.jump t).ie = s.ie := rfl
@[simp] theorem State.ie_advance : (s.advance).ie = s.ie := rfl
@[simp] theorem State.ie_sampled : (s.sampled).ie = s.ie := rfl
@[simp] theorem State.ie_storeByte (a : Word) (b : Byte) : (s.storeByte a b).ie = s.ie := rfl
@[simp] theorem State.ie_storeHalf (a : Word) (v : Half) : (s.storeHalf a v).ie = s.ie := by simp only [State.storeHalf, State.ie_storeByte]
@[simp] theorem State.ie_storeWord (a v : Word) : (s.storeWord a v).ie = s.ie := by simp only [State.storeWord, State.ie_storeByte]
@[simp] theorem State.ie_send (u : CommandUnit) (cmd : BitVec 4) (a : Word) : (s.send u cmd a).ie = s.ie := rfl

@[simp] theorem State.de_setReg (r : Reg) (v : Word) : (s.setReg r v).de = s.de := by unfold State.setReg; split <;> rfl
@[simp] theorem State.de_jump (t : Word) : (s.jump t).de = s.de := rfl
@[simp] theorem State.de_advance : (s.advance).de = s.de := rfl
@[simp] theorem State.de_sampled : (s.sampled).de = s.de := rfl
@[simp] theorem State.de_storeByte (a : Word) (b : Byte) : (s.storeByte a b).de = s.de := rfl
@[simp] theorem State.de_storeHalf (a : Word) (v : Half) : (s.storeHalf a v).de = s.de := by simp only [State.storeHalf, State.de_storeByte]
@[simp] theorem State.de_storeWord (a v : Word) : (s.storeWord a v).de = s.de := by simp only [State.storeWord, State.de_storeByte]
@[simp] theorem State.de_send (u : CommandUnit) (cmd : BitVec 4) (a : Word) : (s.send u cmd a).de = s.de := rfl

@[simp] theorem State.ds_setReg (r : Reg) (v : Word) : (s.setReg r v).ds = s.ds := by unfold State.setReg; split <;> rfl
@[simp] theorem State.ds_jump (t : Word) : (s.jump t).ds = s.ds := rfl
@[simp] theorem State.ds_advance : (s.advance).ds = s.ds := rfl
@[simp] theorem State.ds_sampled : (s.sampled).ds = s.ds := rfl
@[simp] theorem State.ds_storeByte (a : Word) (b : Byte) : (s.storeByte a b).ds = s.ds := rfl
@[simp] theorem State.ds_storeHalf (a : Word) (v : Half) : (s.storeHalf a v).ds = s.ds := by simp only [State.storeHalf, State.ds_storeByte]
@[simp] theorem State.ds_storeWord (a v : Word) : (s.storeWord a v).ds = s.ds := by simp only [State.storeWord, State.ds_storeByte]
@[simp] theorem State.ds_send (u : CommandUnit) (cmd : BitVec 4) (a : Word) : (s.send u cmd a).ds = s.ds := rfl

@[simp] theorem State.vb_setReg (r : Reg) (v : Word) : (s.setReg r v).vb = s.vb := by unfold State.setReg; split <;> rfl
@[simp] theorem State.vb_jump (t : Word) : (s.jump t).vb = s.vb := rfl
@[simp] theorem State.vb_advance : (s.advance).vb = s.vb := rfl
@[simp] theorem State.vb_sampled : (s.sampled).vb = s.vb := rfl
@[simp] theorem State.vb_storeByte (a : Word) (b : Byte) : (s.storeByte a b).vb = s.vb := rfl
@[simp] theorem State.vb_storeHalf (a : Word) (v : Half) : (s.storeHalf a v).vb = s.vb := by simp only [State.storeHalf, State.vb_storeByte]
@[simp] theorem State.vb_storeWord (a v : Word) : (s.storeWord a v).vb = s.vb := by simp only [State.storeWord, State.vb_storeByte]
@[simp] theorem State.vb_send (u : CommandUnit) (cmd : BitVec 4) (a : Word) : (s.send u cmd a).vb = s.vb := rfl

@[simp] theorem State.intRequest_setReg (r : Reg) (v : Word) : (s.setReg r v).intRequest = s.intRequest := by unfold State.setReg; split <;> rfl
@[simp] theorem State.intRequest_jump (t : Word) : (s.jump t).intRequest = s.intRequest := rfl
@[simp] theorem State.intRequest_advance : (s.advance).intRequest = s.intRequest := rfl
@[simp] theorem State.intRequest_writeSr (v : Word) : (s.writeSr v).intRequest = s.intRequest := rfl
@[simp] theorem State.intRequest_storeByte (a : Word) (b : Byte) : (s.storeByte a b).intRequest = s.intRequest := rfl
@[simp] theorem State.intRequest_storeHalf (a : Word) (v : Half) : (s.storeHalf a v).intRequest = s.intRequest := by simp only [State.storeHalf, State.intRequest_storeByte]
@[simp] theorem State.intRequest_storeWord (a v : Word) : (s.storeWord a v).intRequest = s.intRequest := by simp only [State.storeWord, State.intRequest_storeByte]
@[simp] theorem State.intRequest_send (u : CommandUnit) (cmd : BitVec 4) (a : Word) : (s.send u cmd a).intRequest = s.intRequest := rfl
@[simp] theorem State.intRequest_saveContext (e : Exc) (ret : Word) : (s.saveContext e ret).intRequest = s.intRequest := by unfold State.saveContext; split <;> rfl
@[simp] theorem State.intRequest_returnFromException : (s.returnFromException).intRequest = s.intRequest := by unfold State.returnFromException; split <;> rfl

/-! General registers (R21). -/

@[simp] theorem State.reg_zero : s.reg 0#5 = 0#32 := rfl

@[simp] theorem State.setReg_zero (v : Word) : s.setReg 0#5 v = s := rfl

theorem regIndex_inj {q r : Reg} (hq : q ≠ 0#5) (hr : r ≠ 0#5) : r.toNat - 1 = q.toNat - 1 ↔ q = r := by
  have h1 : r.toNat ≠ 0 := fun h => hr (BitVec.eq_of_toNat_eq (by simpa using h))
  have h2 : q.toNat ≠ 0 := fun h => hq (BitVec.eq_of_toNat_eq (by simpa using h))
  rw [← BitVec.toNat_inj]
  omega

/-- What a register reads after a write. -/
theorem State.reg_setReg (r q : Reg) (v : Word) :
    (s.setReg r v).reg q = if q = r ∧ q ≠ 0#5 then v else s.reg q := by
  unfold State.setReg
  by_cases hr : r = 0#5
  · subst hr
    by_cases hq : q = 0#5 <;> simp [hq]
  · rw [if_neg hr]
    unfold State.reg
    by_cases hq : q = 0#5
    · simp [hq]
    · simp only [hq, if_false, Vector.getElem_set, regIndex_inj hq hr, ne_eq, not_false_eq_true, and_true]

@[simp] theorem State.reg_setReg_same (r : Reg) (v : Word) :
    (s.setReg r v).reg r = if r = 0#5 then 0#32 else v := by
  rw [State.reg_setReg]
  by_cases h : r = 0#5 <;> simp [h]

theorem State.reg_setReg_ne {r q : Reg} (v : Word) (h : q ≠ r) : (s.setReg r v).reg q = s.reg q := by
  rw [State.reg_setReg, if_neg (fun hh => h hh.1)]

end Sys2Proof.Machine
end

