-- ==== Sys2Proof/Laws/Ops.lean ====
section
/-! SUPPORT. For each shared operation, what it can do, said once: exception entry and return, the privilege check, the
shapes of the instructions, the control registers, the module registers and the unit commands. -/

namespace Sys2Proof.Machine

open Sys2Proof

/-! ## The status register -/

/-- The fields of a status word, read from the word alone. -/
theorem State.ie_def (s : State) : s.ie = s.sr.getLsbD 0 := by
  unfold State.ie State.readSr srStorage srIE
  cases h : s.sr.getLsbD 0
  · have : s.sr &&& 0x7F#32 &&& 0x01#32 = 0#32 := by
      apply BitVec.eq_of_getLsbD_eq; intro i hi
      interval_cases i <;> simp_all
    rw [this]; rfl
  · have : s.sr &&& 0x7F#32 &&& 0x01#32 = 1#32 := by
      apply BitVec.eq_of_getLsbD_eq; intro i hi
      interval_cases i <;> simp_all
    rw [this]; rfl

theorem State.de_def (s : State) : s.de = s.sr.getLsbD 1 := by
  unfold State.de State.readSr srStorage srDE
  cases h : s.sr.getLsbD 1
  · have : s.sr &&& 0x7F#32 &&& 0x02#32 = 0#32 := by
      apply BitVec.eq_of_getLsbD_eq; intro i hi
      interval_cases i <;> simp_all
    rw [this]; rfl
  · have : s.sr &&& 0x7F#32 &&& 0x02#32 = 2#32 := by
      apply BitVec.eq_of_getLsbD_eq; intro i hi
      interval_cases i <;> simp_all
    rw [this]; rfl

theorem State.ds_def (s : State) : s.ds = s.sr.getLsbD 2 := by
  unfold State.ds State.readSr srStorage srDS
  cases h : s.sr.getLsbD 2
  · have : s.sr &&& 0x7F#32 &&& 0x04#32 = 0#32 := by
      apply BitVec.eq_of_getLsbD_eq; intro i hi
      interval_cases i <;> simp_all
    rw [this]; rfl
  · have : s.sr &&& 0x7F#32 &&& 0x04#32 = 4#32 := by
      apply BitVec.eq_of_getLsbD_eq; intro i hi
      interval_cases i <;> simp_all
    rw [this]; rfl

theorem State.mode_def (s : State) : s.mode = if s.sr.getLsbD 3 then .supervisor else .user := by
  unfold State.mode State.readSr srStorage srSM
  cases h : s.sr.getLsbD 3
  · have : s.sr &&& 0x7F#32 &&& 0x08#32 = 0#32 := by
      apply BitVec.eq_of_getLsbD_eq; intro i hi
      interval_cases i <;> simp_all
    rw [this]; rfl
  · have : s.sr &&& 0x7F#32 &&& 0x08#32 = 8#32 := by
      apply BitVec.eq_of_getLsbD_eq; intro i hi
      interval_cases i <;> simp_all
    rw [this]; rfl

theorem State.vb_def (s : State) : s.vb = s.sr.extractLsb' 4 3 := by
  unfold State.vb State.readSr srStorage
  ext j hj
  interval_cases j <;> simp

/-- A value written to SR as a whole leaves its reserved bits 0 (R33). -/
theorem storage_reserved (v : Word) : v &&& srStorage &&& ~~~srStorage = 0#32 := by
  rw [BitVec.and_assoc]
  show v &&& 0#32 = 0#32
  simp

@[simp] theorem storage_idem (v : Word) : v &&& srStorage &&& srStorage = v &&& srStorage := by
  rw [BitVec.and_assoc]; rfl

/-- The accessors read a status word the same whether or not it was masked. -/
theorem State.readSr_eq_sr {s : State} (h : s.sr &&& ~~~srStorage = 0#32) : s.readSr = s.sr := by
  unfold State.readSr
  have h2 : s.sr = s.sr &&& srStorage ||| s.sr &&& ~~~srStorage := by
    apply BitVec.eq_of_getLsbD_eq; intro i hi
    simp only [BitVec.getLsbD_or, BitVec.getLsbD_and, BitVec.getLsbD_not, hi, decide_true, Bool.true_and]
    cases s.sr.getLsbD i <;> cases srStorage.getLsbD i <;> rfl
  rw [h] at h2
  simpa using h2.symm

theorem State.mode_of_readSr {s t : State} (h : s.readSr = t.readSr) : s.mode = t.mode := by
  unfold State.mode; rw [h]

theorem State.ie_of_readSr {s t : State} (h : s.readSr = t.readSr) : s.ie = t.ie := by
  unfold State.ie; rw [h]

/-! ## Exception entry and return -/

/-- The bits SR has after entry (R346). -/
theorem State.saveContext_bits (s : State) (e : Exc) (ret : Word) :
    (s.saveContext e ret).ie = false ∧ (s.saveContext e ret).mode = .supervisor ∧
      (s.saveContext e ret).ds = e.isDebug ∧ (s.saveContext e ret).de = (!e.isDebug && s.de) ∧
      (s.saveContext e ret).vb = s.vb ∧ (s.saveContext e ret).sr &&& ~~~srStorage = 0#32 := by
  have hsr : (s.saveContext e ret).sr = srAfterEntry e s.readSr &&& srStorage := by
    unfold State.saveContext; rfl
  rw [State.ie_def, State.mode_def, State.ds_def, State.de_def, State.vb_def, hsr, State.de_def, State.vb_def]
  refine ⟨?_, ?_, ?_, ?_, ?_, storage_reserved _⟩
  all_goals unfold srAfterEntry State.readSr
  all_goals cases e.isDebug
  all_goals simp [srIE, srDE, srDS, srSM, srStorage]
  all_goals first
    | done
    | (ext j hj; interval_cases j <;> simp)

theorem State.saveContext_nonDebug {s : State} {e : Exc} {ret : Word} (h : e.isDebug = false) :
    (s.saveContext e ret).esr = s.readSr ∧ (s.saveContext e ret).epc = ret ∧ (s.saveContext e ret).dsr = s.dsr ∧
      (s.saveContext e ret).dpc = s.dpc := by
  simp [State.saveContext, h]

theorem State.saveContext_debug {s : State} {e : Exc} {ret : Word} (h : e.isDebug = true) :
    (s.saveContext e ret).dsr = s.readSr ∧ (s.saveContext e ret).dpc = ret ∧ (s.saveContext e ret).esr = s.esr ∧
      (s.saveContext e ret).epc = s.epc := by
  simp [State.saveContext, h]

/-- The vector base as the spec computes it, but for DBOOT (R344). -/
theorem State.vectorBase_spec (s : State) {e : Exc} (h : e ≠ .dboot) : s.vectorBase e = SpecVectorBase s := by
  have h1 : (e == Exc.dboot) = false := by simpa using h
  have h2 : ∀ v : BitVec 3, resetVectorBase ||| (zext32 v <<< 26) = 0x80000000#32 + (v.setWidth 32 <<< 26) := by decide
  unfold State.vectorBase SpecVectorBase
  rw [h1, Bool.or_false, h2]

/-- An entry whose vector can be read (R346). -/
theorem enter_readable {e : Exc} {ret : Word} {s : State}
    (h : accessFault s.cfg .load (s.vectorBase e + e.offset) .word .supervisor = false) :
    enter e ret s = .next ((s.saveContext e ret).jump (s.wordAt (s.vectorBase e + e.offset))) := by
  unfold enter
  simp [h]

/-- All that an entry can do: it is refused, or it saves, changes SR and goes to the vector word. -/
theorem enter_next {e : Exc} {ret : Word} {s t : State} (h : enter e ret s = .next t) :
    t = (s.saveContext e ret).jump (s.wordAt (s.vectorBase e + e.offset)) := by
  unfold enter at h
  simp only at h
  split at h
  · cases h
  · injection h with h; exact h.symm

theorem enter_nonDebug {e : Exc} {ret : Word} {s : State} {written : List Reg} (hd : e.isDebug = false)
    (hv : VectorReadable s e.offset) : EntersNonDebug (enter e ret s) s e.offset ret written := by
  have hne : e ≠ .dboot := by intro hh; subst hh; cases hd
  have hb := State.vectorBase_spec s hne
  obtain ⟨h1, h2, h3, h4, h5, h6⟩ := State.saveContext_bits s e ret
  obtain ⟨g1, g2, g3, g4⟩ := State.saveContext_nonDebug (s := s) (ret := ret) hd
  refine ⟨_, enter_readable (by rw [hb]; exact hv), ?_⟩
  rw [hd] at h3 h4
  simp only [State.jump_esr, State.jump_epc, State.jump_dsr, State.jump_dpc, State.ie_jump, State.ds_jump, State.mode_jump,
    State.de_jump, State.vb_jump, State.jump_sr, State.jump_pc, State.jump_stored, State.saveContext_stored, hb]
  refine ⟨g1, g2, g3, g4, h1, h3, h2, by simpa using h4, h5, h6, trivial, ?_, ?_, trivial, ?_⟩
  · intro r _; simp
  · intro a; simp
  · simp [SameHidden]

theorem enter_debug {e : Exc} {ret : Word} {s : State} (hd : e.isDebug = true) (hne : e ≠ .dboot)
    (hv : VectorReadable s e.offset) : EntersDebug (enter e ret s) s e.offset ret := by
  have hb := State.vectorBase_spec s hne
  obtain ⟨h1, h2, h3, h4, h5, h6⟩ := State.saveContext_bits s e ret
  obtain ⟨g1, g2, g3, g4⟩ := State.saveContext_debug (s := s) (ret := ret) hd
  refine ⟨_, enter_readable (by rw [hb]; exact hv), ?_⟩
  rw [hd] at h3 h4
  simp only [State.jump_esr, State.jump_epc, State.jump_dsr, State.jump_dpc, State.ie_jump, State.ds_jump, State.mode_jump,
    State.de_jump, State.vb_jump, State.jump_sr, State.jump_pc, State.jump_stored, State.saveContext_stored, hb]
  refine ⟨g1, g2, g3, g4, h1, by simpa using h4, h3, h2, h5, h6, trivial, ?_, ?_, trivial, ?_⟩
  · intro r _; simp
  · intro a; simp
  · simp [SameHidden]

/-- All that a power-on reset can do (R43, R354, R400): the vector entry can be read and the state is that of R43, or it is
refused. -/
theorem powerOnReset_next {cfg : Config} {mem : Memory} {t : State} (h : powerOnReset cfg mem = .next t) :
    accessFault cfg .load resetVectorBase .word .supervisor = false ∧ t = State.powerOn cfg mem := by
  unfold powerOnReset at h
  split at h
  · cases h
  · next hf => injection h with h; exact ⟨by simpa using hf, h.symm⟩

theorem powerOnReset_readable {cfg : Config} {mem : Memory}
    (h : accessFault cfg .load resetVectorBase .word .supervisor = false) :
    powerOnReset cfg mem = .next (State.powerOn cfg mem) := by
  unfold powerOnReset; simp [h]

theorem powerOnReset_faults {cfg : Config} {mem : Memory}
    (h : accessFault cfg .load resetVectorBase .word .supervisor = true) :
    powerOnReset cfg mem = .refused .faultDuringExceptionEntry := by
  unfold powerOnReset; simp [h]

/-- The reset state of the model is that of a power-on reset on the default platform. -/
theorem powerOnReset_default : powerOnReset Config.default [] = .next State.reset := rfl

@[simp] theorem State.powerOn_sr (cfg : Config) (mem : Memory) : (State.powerOn cfg mem).sr = 0x00000008#32 := rfl
@[simp] theorem State.powerOn_pc (cfg : Config) (mem : Memory) :
    (State.powerOn cfg mem).pc = (State.powerOn cfg mem).wordAt resetVectorBase := rfl
@[simp] theorem State.powerOn_sleeping (cfg : Config) (mem : Memory) : (State.powerOn cfg mem).sleeping = false := rfl
@[simp] theorem State.powerOn_mem (cfg : Config) (mem : Memory) : (State.powerOn cfg mem).mem = mem := rfl
@[simp] theorem State.powerOn_stored (cfg : Config) (mem : Memory) : (State.powerOn cfg mem).stored = [] := rfl
@[simp] theorem State.powerOn_cfg (cfg : Config) (mem : Memory) : (State.powerOn cfg mem).cfg = cfg := rfl

@[simp] theorem State.powerOn_reg (cfg : Config) (mem : Memory) (r : Reg) : (State.powerOn cfg mem).reg r = 0#32 := by
  unfold State.reg State.powerOn
  split
  · rfl
  · simp

/-- RTE's effect: SR and PC from the pair that SR.DS names (R288). -/
theorem State.returnFromException_spec (s : State) :
    s.returnFromException.sr = (if s.ds then s.dsr else s.esr) &&& srStorage ∧
      s.returnFromException.pc = if s.ds then s.dpc else s.epc := by
  unfold State.returnFromException
  cases s.ds <;> simp

/-! ## The privilege check -/

theorem supervisorOnly_supervisor {s : State} {go : Result} (h : s.mode = .supervisor) : supervisorOnly s go = go := by
  unfold supervisorOnly; rw [h]

theorem supervisorOnly_user {s : State} {go : Result} (h : s.mode = .user) :
    supervisorOnly s go = enter .illins s.pc s := by
  unfold supervisorOnly; rw [h]

theorem supervisorOnly_next {s t : State} {go : Result} (h : supervisorOnly s go = .next t) :
    (s.mode = .supervisor ∧ go = .next t) ∨ (s.mode = .user ∧ enter .illins s.pc s = .next t) := by
  cases hm : s.mode
  · right; rw [supervisorOnly_user hm] at h; exact ⟨rfl, h⟩
  · left; rw [supervisorOnly_supervisor hm] at h; exact ⟨rfl, h⟩

theorem supervisorOnly_illegal {s : State} {go : Result} {i : Instr} (h : exec i s = supervisorOnly s go) :
    IllegalInUserMode i s := by
  intro hm hv
  rw [h, supervisorOnly_user hm]
  exact enter_nonDebug (e := .illins) rfl hv

/-! ## Shapes of instructions -/

theorem Frame_refl (s : State) : Frame s s [] :=
  ⟨fun _ _ => rfl, ⟨rfl, rfl, rfl, rfl, rfl⟩, fun _ => rfl, rfl, ⟨rfl, rfl, rfl, rfl, rfl⟩⟩

theorem writeAndAdvance_completes (s : State) (r : Reg) (v : Word) : CompletesWith (writeAndAdvance s r v) s r v := by
  refine ⟨_, rfl, ?_, ?_, ?_, ?_, ?_, ?_, ?_⟩
  · simp
  · simp
  · intro q hq
    simp only [List.mem_singleton] at hq
    simp [State.reg_setReg_ne s v hq]
  · simp [SameControl]
  · intro a; simp
  · simp
  · simp [SameHidden]

/-- `writeAndAdvance` of a known value. -/
theorem writeAndAdvance_completes_eq {s : State} {r : Reg} {v w : Word} (h : v = w) :
    CompletesWith (writeAndAdvance s r v) s r w := h ▸ writeAndAdvance_completes s r v

theorem branchIf_branches {s : State} {c : Bool} {s10 : BitVec 10} {p : Prop} (h : c = true ↔ p) :
    Branches (branchIf s c s10) s p s10 := by
  refine ⟨_, rfl, ?_, ?_, fun _ _ => rfl, ⟨rfl, rfl, rfl, rfl, rfl⟩, fun _ => rfl, rfl, ⟨rfl, rfl, rfl, rfl, rfl⟩⟩
  · intro hp
    rw [State.jump_pc, if_pos (h.mpr hp)]; rfl
  · intro hp
    rw [State.jump_pc, if_neg (fun hc => hp (h.mp hc))]

theorem withAccess_accessible {s : State} {k : AccessKind} {a : Word} {z : AccessSize} {go : Result}
    (h : Accessible s k a z) : withAccess s k a z go = go := by
  unfold withAccess
  rw [h.1, h.2]
  simp

theorem withAccess_stops (s : State) (k : AccessKind) (a : Word) (z : AccessSize) (go : Result) :
    AccessStops (withAccess s k a z go) s k a z := by
  refine ⟨fun h1 h2 hv => ?_, fun h1 h2 => ?_, fun h1 h2 hv => ?_⟩ <;> unfold withAccess <;> rw [h1] <;> simp only [h2]
  · exact enter_nonDebug (e := .dfault) rfl hv
  · rfl
  · exact enter_nonDebug (e := .dfault) rfl hv

/-- All that a checked access can do. -/
theorem withAccess_next {s t : State} {k : AccessKind} {a : Word} {z : AccessSize} {go : Result}
    (h : withAccess s k a z go = .next t) : go = .next t ∨ enter .dfault s.pc s = .next t := by
  unfold withAccess at h
  split at h
  · split at h
    · exact .inr h
    · exact .inl h
  · split at h
    · cases h
    · exact .inr h

theorem loadInto_rule {i : Instr} {s : State} {r : Reg} {a : Word} {z : AccessSize} {v w : Word}
    (h : exec i s = loadInto s r a z v) (hv : v = w) : LoadRule i s r a z w := by
  subst hv
  unfold LoadRule
  rw [h]
  exact ⟨fun ha => by unfold loadInto; rw [withAccess_accessible ha]; exact writeAndAdvance_completes s r v,
    withAccess_stops s .load a z _⟩

/-! ## Memory after a store -/

@[simp] theorem State.byteAt_storeByte (s : State) (a x : Word) (b : Byte) :
    (s.storeByte a b).byteAt x = if x = a then b else s.byteAt x := by
  simp [State.byteAt]

@[simp] theorem State.storeByte_isStored (s : State) (a x : Word) (b : Byte) :
    isStored (s.storeByte a b).stored x = (decide (x = a) || isStored s.stored x) := by
  rw [State.storeByte_stored, isStored_noteStored]

theorem State.byteAt_storeHalf (s : State) (a x : Word) (v : Half) :
    (s.storeHalf a v).byteAt x = if x = a + 1#32 then byteOfHalf s.cfg.endian v 1
      else if x = a then byteOfHalf s.cfg.endian v 0 else s.byteAt x := by
  simp only [State.storeHalf, State.byteAt_storeByte]

theorem State.byteAt_storeWord (s : State) (a x : Word) (v : Word) :
    (s.storeWord a v).byteAt x = if x = a + 3#32 then byteOfWord s.cfg.endian v 3
      else if x = a + 2#32 then byteOfWord s.cfg.endian v 2
      else if x = a + 1#32 then byteOfWord s.cfg.endian v 1
      else if x = a then byteOfWord s.cfg.endian v 0 else s.byteAt x := by
  simp only [State.storeWord, State.byteAt_storeByte]

theorem State.halfAt_bytes (s : State) (a : Word) :
    s.halfAt a = halfOfBytes s.cfg.endian (s.byteAt a) (s.byteAt (a + 1#32)) := rfl

theorem State.wordAt_bytes (s : State) (a : Word) :
    s.wordAt a = wordOfBytes s.cfg.endian (s.byteAt a) (s.byteAt (a + 1#32)) (s.byteAt (a + 2#32)) (s.byteAt (a + 3#32)) := rfl

@[simp] theorem State.halfAt_storeHalf (s : State) (a : Word) (v : Half) : (s.storeHalf a v).halfAt a = v := by
  obtain ⟨h1, -⟩ := word_addresses_ne a
  rw [State.halfAt_bytes, State.byteAt_storeHalf, State.byteAt_storeHalf, State.storeHalf_cfg]
  simp

@[simp] theorem State.wordAt_storeWord (s : State) (a : Word) (v : Word) : (s.storeWord a v).wordAt a = v := by
  simp only [State.wordAt_bytes, State.byteAt_storeWord, State.storeWord_cfg]
  have e : ∀ x y : Word, (a + x = a + y) = (x = y) := fun x y => by simp
  have e0 : ∀ y : Word, (a = a + y) = (y = 0#32) := fun y => by simp
  simp [e0]

theorem isStored_storeHalf (s : State) (a x : Word) (v : Half) :
    isStored (s.storeHalf a v).stored x = true ↔
      isStored s.stored x = true ∨ ∃ k : Nat, k < 2 ∧ x = a + BitVec.ofNat 32 k := by
  simp only [State.storeHalf, State.storeByte_isStored, Bool.or_eq_true, decide_eq_true_eq]
  constructor
  · rintro (h | h | h)
    · exact .inr ⟨1, by decide, h⟩
    · exact .inr ⟨0, by decide, by simpa using h⟩
    · exact .inl h
  · rintro (h | ⟨k, hk, h⟩)
    · exact .inr (.inr h)
    · interval_cases k
      · exact .inr (.inl (by simpa using h))
      · exact .inl h

theorem isStored_storeWord (s : State) (a x v : Word) :
    isStored (s.storeWord a v).stored x = true ↔
      isStored s.stored x = true ∨ ∃ k : Nat, k < 4 ∧ x = a + BitVec.ofNat 32 k := by
  simp only [State.storeWord, State.storeByte_isStored, Bool.or_eq_true, decide_eq_true_eq]
  constructor
  · rintro (h | h | h | h | h)
    · exact .inr ⟨3, by decide, h⟩
    · exact .inr ⟨2, by decide, h⟩
    · exact .inr ⟨1, by decide, h⟩
    · exact .inr ⟨0, by decide, by simpa using h⟩
    · exact .inl h
  · rintro (h | ⟨k, hk, h⟩)
    · exact .inr (.inr (.inr (.inr h)))
    · interval_cases k
      · exact .inr (.inr (.inr (.inl (by simpa using h))))
      · exact .inr (.inr (.inl h))
      · exact .inr (.inl h)
      · exact .inl h

theorem SameMemoryOutside_storeHalf (s : State) (a : Word) (v : Half) : SameMemoryOutside s (s.storeHalf a v) a 2 := by
  intro x hx
  have h0 : x ≠ a := by simpa using hx 0 (by decide)
  rw [State.byteAt_storeHalf, if_neg (hx 1 (by decide)), if_neg h0]

theorem SameMemoryOutside_storeWord (s : State) (a v : Word) : SameMemoryOutside s (s.storeWord a v) a 4 := by
  intro x hx
  have h0 : x ≠ a := by simpa using hx 0 (by decide)
  rw [State.byteAt_storeWord, if_neg (hx 3 (by decide)), if_neg (hx 2 (by decide)), if_neg (hx 1 (by decide)), if_neg h0]

/-- A store of one byte (R234). -/
theorem storeTo_byte_rule {i : Instr} {s : State} {a : Word} {v w : Byte}
    (h : exec i s = storeTo s a .byte (s.storeByte a v)) (hv : v = w) :
    StoreRule i s a .byte (fun t => t.byteAt a = w) := by
  subst hv
  unfold StoreRule
  rw [h]
  refine ⟨fun ha => ?_, withAccess_stops s .store a .byte _⟩
  unfold storeTo
  rw [withAccess_accessible ha]
  refine ⟨_, rfl, by simp, by simp, fun r _ => by simp, by simp [SameControl], by simp [SameHidden], ?_, ?_⟩
  · intro x hx
    have h0 : x ≠ a := by simpa using hx 0 (by decide)
    simp [h0]
  · intro x
    simp only [State.advance_stored, State.storeByte_isStored, Bool.or_eq_true, decide_eq_true_eq]
    constructor
    · rintro (h | h)
      · exact .inr ⟨0, by decide, by simpa using h⟩
      · exact .inl h
    · rintro (h | ⟨k, hk, h⟩)
      · exact .inr h
      · have : k = 0 := by simp only [AccessSize.bytes] at hk; omega
        subst this
        exact .inl (by simpa using h)

/-- A store of a halfword (R234). -/
theorem storeTo_half_rule {i : Instr} {s : State} {a : Word} {v w : Half}
    (h : exec i s = storeTo s a .half (s.storeHalf a v)) (hv : v = w) :
    StoreRule i s a .half (fun t => t.halfAt a = w) := by
  subst hv
  unfold StoreRule
  rw [h]
  refine ⟨fun ha => ?_, withAccess_stops s .store a .half _⟩
  unfold storeTo
  rw [withAccess_accessible ha]
  exact ⟨_, rfl, by simp, by simp, fun r _ => by simp, by simp [SameControl], by simp [SameHidden],
    SameMemoryOutside_storeHalf s a v, fun x => isStored_storeHalf s a x v⟩

/-- A store of a word (R234). -/
theorem storeTo_word_rule {i : Instr} {s : State} {a v w : Word}
    (h : exec i s = storeTo s a .word (s.storeWord a v)) (hv : v = w) :
    StoreRule i s a .word (fun t => t.wordAt a = w) := by
  subst hv
  unfold StoreRule
  rw [h]
  refine ⟨fun ha => ?_, withAccess_stops s .store a .word _⟩
  unfold storeTo
  rw [withAccess_accessible ha]
  exact ⟨_, rfl, by simp, by simp, fun r _ => by simp, by simp [SameControl], by simp [SameHidden],
    SameMemoryOutside_storeWord s a v, fun x => isStored_storeWord s a x v⟩

/-! ## The canonical forms are kept -/

/-- Both lists of the state are canonical. -/
def State.Canonical (s : State) : Prop := Memory.wf s.mem = true ∧ addressesWf s.stored = true

theorem State.canonical_storeByte {s : State} (h : s.Canonical) (a : Word) (b : Byte) : (s.storeByte a b).Canonical :=
  ⟨Memory.wf_put a b h.1, addressesWf_noteStored a h.2⟩

theorem State.canonical_storeHalf {s : State} (h : s.Canonical) (a : Word) (v : Half) : (s.storeHalf a v).Canonical :=
  State.canonical_storeByte (State.canonical_storeByte h _ _) _ _

theorem State.canonical_storeWord {s : State} (h : s.Canonical) (a : Word) (v : Word) : (s.storeWord a v).Canonical :=
  State.canonical_storeByte (State.canonical_storeByte (State.canonical_storeByte (State.canonical_storeByte h _ _) _ _) _ _) _ _

/-! ## Control registers, module registers, unit commands -/

/-- All that a write of a control register can do (R292). -/
theorem State.writeCr_some {s u : State} {cr : BitVec 5} {v : Word} (h : s.writeCr cr v = some u) :
    u.regs = s.regs ∧ u.pc = s.pc ∧ u.mem = s.mem ∧ u.stored = s.stored ∧ SameHidden s u ∧ u.mode = s.mode ∧
      u.sr = (if cr = 0#5 then (s.sr &&& 0x08#32) ||| (v &&& 0x77#32) else s.sr) ∧
      u.esr = (if cr = 1#5 then v else s.esr) ∧ u.epc = (if cr = 2#5 then v else s.epc) ∧
      u.dsr = (if cr = 5#5 then v else s.dsr) ∧ u.dpc = (if cr = 6#5 then v else s.dpc) := by
  have key : (s.readSr &&& ~~~srWritable ||| v &&& srWritable) &&& srStorage = (s.sr &&& 0x08#32) ||| (v &&& 0x77#32) := by
    unfold State.readSr srWritable srStorage
    apply BitVec.eq_of_getLsbD_eq
    intro i hi
    interval_cases i <;> simp
  unfold State.writeCr at h
  split at h <;> first | (cases h; done) | (injection h with h; subst h)
  · refine ⟨rfl, rfl, rfl, rfl, ⟨rfl, rfl, rfl, rfl, rfl⟩, ?_, by simpa using key, rfl, rfl, rfl, rfl⟩
    rw [State.mode_def, State.mode_def, State.writeSr_sr, key]
    simp
  · exact ⟨rfl, rfl, rfl, rfl, ⟨rfl, rfl, rfl, rfl, rfl⟩, rfl, rfl, rfl, rfl, rfl, rfl⟩
  · exact ⟨rfl, rfl, rfl, rfl, ⟨rfl, rfl, rfl, rfl, rfl⟩, rfl, rfl, rfl, rfl, rfl, rfl⟩
  · exact ⟨rfl, rfl, rfl, rfl, ⟨rfl, rfl, rfl, rfl, rfl⟩, rfl, rfl, rfl, rfl, rfl, rfl⟩
  · exact ⟨rfl, rfl, rfl, rfl, ⟨rfl, rfl, rfl, rfl, rfl⟩, rfl, rfl, rfl, rfl, rfl, rfl⟩

/-- An index names a control register or it does not: reads and writes agree (R290). -/
theorem State.cr_isSome (s : State) (cr : BitVec 5) (v : Word) :
    (s.readCr cr).isSome = isControlRegister cr ∧ (s.writeCr cr v).isSome = isControlRegister cr := by
  unfold State.readCr State.writeCr isControlRegister
  constructor <;> split <;> simp_all

theorem isControlRegister_iff (cr : BitVec 5) : isControlRegister cr = true ↔ cr ∈ [0#5, 1#5, 2#5, 5#5, 6#5] := by
  revert cr; decide

/-- All that the checks of CLD and CST let through (R293, R294). -/
theorem withModuleRegister_next {s t : State} {id : BitVec 3} {number : BitVec 10} {go : BitVec 9 → Result}
    (h : withModuleRegister s id number go = .next t) :
    number.toNat ≤ 511 ∧ s.mode = .supervisor ∧ s.cfg.moduleRegs.contains (id, number.setWidth 9) = true ∧
      go (number.setWidth 9) = .next t := by
  unfold withModuleRegister at h
  split at h
  · next hn =>
    cases hm : s.mode <;> rw [hm] at h <;> simp only at h
    · cases h
    · split at h
      · next hr => exact ⟨hn, rfl, hr, h⟩
      · cases h
  · cases h

/-- What the platform defines of a command names that unit and that command. -/
theorem findCommand_some {cfg : Config} {u : CommandUnit} {cmd : BitVec 4} {d : CommandDef}
    (h : findCommand cfg u cmd = some d) : d = ⟨u, cmd, d.privileged⟩ := by
  have := List.find?_some h
  simp only [Bool.and_eq_true, beq_iff_eq] at this
  obtain ⟨rfl, rfl⟩ := this
  rfl

/-- A command sent, and the next instruction: nothing else. -/
theorem send_completes (s : State) (u : CommandUnit) (cmd : BitVec 4) (a : Word) :
    CompletesAs (.next (s.send u cmd a).advance) { s with commandLog := ⟨u, cmd, a⟩ :: s.commandLog } :=
  ⟨_, rfl, rfl, fun _ _ => rfl, ⟨rfl, rfl, rfl, rfl, rfl⟩, fun _ => rfl, rfl, ⟨rfl, rfl, rfl, rfl, rfl⟩⟩

theorem sendTlbCommand_next {s t : State} {u : CommandUnit} {cmd : BitVec 4} {a : Word}
    (h : sendTlbCommand s u cmd a = .next t) :
    (s.mode = .supervisor ∧ t = (s.send u cmd a).advance) ∨ (s.mode = .user ∧ enter .illins s.pc s = .next t) := by
  rcases supervisorOnly_next h with ⟨hm, h⟩ | h
  · left
    split at h
    · cases h
    · injection h with h; exact ⟨hm, h.symm⟩
  · exact .inr h

theorem sendCacheCommand_next {s t : State} {u : CommandUnit} {cmd : BitVec 4} {a : Word}
    (h : sendCacheCommand s u cmd a = .next t) :
    (∃ p : Bool, findCommand s.cfg u cmd = some ⟨u, cmd, p⟩ ∧ (s.mode = .supervisor ∨ p = false) ∧
      t = (s.send u cmd a).advance) ∨ (s.mode = .user ∧ enter .illins s.pc s = .next t) := by
  unfold sendCacheCommand at h
  split at h
  · cases h
  · next d hd =>
    have hd' := findCommand_some hd
    rw [hd'] at hd
    split at h
    · next hp =>
      rcases supervisorOnly_next h with ⟨hm, h⟩ | h
      · injection h with h; exact .inl ⟨_, hd, .inl hm, h.symm⟩
      · exact .inr h
    · next hp => injection h with h; exact .inl ⟨_, hd, .inr (by simpa using hp), h.symm⟩

end Sys2Proof.Machine
end

