-- ==== Sys2Proof/Laws/PerInstr.lean ====
section
/-! SUPPORT. Statements about every instruction, made per instruction: the word of an instruction has the fixed bits of its
row of spec/opcode_table.json, and zeros in the bits the row gives no field. -/

namespace Sys2Proof.Laws

open Sys2Proof

theorem or_and_distrib (x y m : Word) : (x ||| y) &&& m = (x &&& m) ||| (y &&& m) := by
  apply BitVec.eq_of_getLsbD_eq
  intro i hi
  simp [Bool.and_or_distrib_right]

namespace EncodesItsRow

/-- The fixed bits of the row, and nothing outside its fixed bits and fields. -/
def Statement (i : Instr) : Prop :=
  encode i &&& (opcodeRow i).mask = (opcodeRow i).pattern ∧
    encode i &&& ~~~((opcodeRow i).mask ||| (opcodeRow i).fields) = 0#32

theorem encRRR_bits (o1 o2 : BitVec 6) (ra rb rc : Reg) :
    encRRR o1 o2 ra rb rc &&& 0xfc00fc00#32 = encOps o1 o2 ∧ encRRR o1 o2 ra rb rc &&& ~~~(0xfc00fc00#32 ||| 0x03ff001f#32) = 0#32 := by
  constructor <;> unfold encRRR encOps <;> simp only [or_and_distrib] <;>
    repeat' first | rw [placeAt_and_clear _ _ (by decide)] | rw [placeAt_and_set _ _ (by decide)]
  all_goals simp

theorem encRRRR_bits (o1 o2 : BitVec 6) (rh ra rb rc : Reg) :
    encRRRR o1 o2 rh ra rb rc &&& 0xfc00fc00#32 = encOps o1 o2 ∧ encRRRR o1 o2 rh ra rb rc &&& ~~~(0xfc00fc00#32 ||| 0x03ff03ff#32) = 0#32 := by
  constructor <;> unfold encRRRR encOps <;> simp only [or_and_distrib] <;>
    repeat' first | rw [placeAt_and_clear _ _ (by decide)] | rw [placeAt_and_set _ _ (by decide)]
  all_goals simp

theorem encRRI5_bits (o1 o2 : BitVec 6) (ra rb : Reg) (u5 : BitVec 5) :
    encRRI5 o1 o2 ra rb u5 &&& 0xfc00ffe0#32 = encOps o1 o2 ∧ encRRI5 o1 o2 ra rb u5 &&& ~~~(0xfc00ffe0#32 ||| 0x03ff001f#32) = 0#32 := by
  constructor <;> unfold encRRI5 encOps <;> simp only [or_and_distrib] <;>
    repeat' first | rw [placeAt_and_clear _ _ (by decide)] | rw [placeAt_and_set _ _ (by decide)]
  all_goals simp

theorem encRRI10_bits (o1 o2 : BitVec 6) (x rb : BitVec 5) (i : BitVec 10) :
    encRRI10 o1 o2 x rb i &&& 0xfc00fc00#32 = encOps o1 o2 ∧ encRRI10 o1 o2 x rb i &&& ~~~(0xfc00fc00#32 ||| 0x03ff03ff#32) = 0#32 := by
  constructor <;> unfold encRRI10 encOps <;> simp only [or_and_distrib] <;>
    repeat' first | rw [placeAt_and_clear _ _ (by decide)] | rw [placeAt_and_set _ _ (by decide)]
  all_goals simp

theorem encRR_bits (o1 o2 : BitVec 6) (ra rb : Reg) :
    encRR o1 o2 ra rb &&& 0xfc00fc00#32 = encOps o1 o2 ∧ encRR o1 o2 ra rb &&& ~~~(0xfc00fc00#32 ||| 0x03ff0000#32) = 0#32 := by
  constructor <;> unfold encRR encOps <;> simp only [or_and_distrib] <;>
    repeat' first | rw [placeAt_and_clear _ _ (by decide)] | rw [placeAt_and_set _ _ (by decide)]
  all_goals simp

theorem encMCR_bits (o1 o2 : BitVec 6) (ra : Reg) (id : BitVec 3) (n : BitVec 10) :
    encMCR o1 o2 ra id n &&& 0xfc18fc00#32 = encOps o1 o2 ∧ encMCR o1 o2 ra id n &&& ~~~(0xfc18fc00#32 ||| 0x03e703ff#32) = 0#32 := by
  constructor <;> unfold encMCR encOps <;> simp only [or_and_distrib] <;>
    repeat' first | rw [placeAt_and_clear _ _ (by decide)] | rw [placeAt_and_set _ _ (by decide)]
  all_goals simp

theorem encCR_bits (o1 o2 : BitVec 6) (ra : Reg) (cr : BitVec 5) :
    encCR o1 o2 ra cr &&& 0xfc00fc00#32 = encOps o1 o2 ∧ encCR o1 o2 ra cr &&& ~~~(0xfc00fc00#32 ||| 0x03e0001f#32) = 0#32 := by
  constructor <;> unfold encCR encOps <;> simp only [or_and_distrib] <;>
    repeat' first | rw [placeAt_and_clear _ _ (by decide)] | rw [placeAt_and_set _ _ (by decide)]
  all_goals simp

theorem encTRAP_bits (o1 o2 : BitVec 6) (ra : Reg) (i : BitVec 10) :
    encTRAP o1 o2 ra i &&& 0xfc00fc00#32 = encOps o1 o2 ∧ encTRAP o1 o2 ra i &&& ~~~(0xfc00fc00#32 ||| 0x03e003ff#32) = 0#32 := by
  constructor <;> unfold encTRAP encOps <;> simp only [or_and_distrib] <;>
    repeat' first | rw [placeAt_and_clear _ _ (by decide)] | rw [placeAt_and_set _ _ (by decide)]
  all_goals simp

theorem encTLB_bits (o1 o2 : BitVec 6) (cmd : BitVec 4) (rb : Reg) :
    encTLB o1 o2 cmd rb &&& 0xfe00fc00#32 = encOps o1 o2 ∧ encTLB o1 o2 cmd rb &&& ~~~(0xfe00fc00#32 ||| 0x01ff0000#32) = 0#32 := by
  constructor <;> unfold encTLB encOps <;> simp only [or_and_distrib] <;>
    repeat' first | rw [placeAt_and_clear _ _ (by decide)] | rw [placeAt_and_set _ _ (by decide)]
  all_goals simp

theorem encCACHE_bits (o1 o2 : BitVec 6) (cmd : BitVec 4) (rb : Reg) (i : BitVec 10) :
    encCACHE o1 o2 cmd rb i &&& 0xfe00fc00#32 = encOps o1 o2 ∧ encCACHE o1 o2 cmd rb i &&& ~~~(0xfe00fc00#32 ||| 0x01ff03ff#32) = 0#32 := by
  constructor <;> unfold encCACHE encOps <;> simp only [or_and_distrib] <;>
    repeat' first | rw [placeAt_and_clear _ _ (by decide)] | rw [placeAt_and_set _ _ (by decide)]
  all_goals simp

theorem encRRI16_bits (o1 : BitVec 6) (ra rb : Reg) (i : BitVec 16) :
    encRRI16 o1 ra rb i &&& 0xfc000000#32 = placeAt 26 o1 ∧ encRRI16 o1 ra rb i &&& ~~~(0xfc000000#32 ||| 0x03ffffff#32) = 0#32 := by
  constructor <;> unfold encRRI16 <;> simp only [or_and_distrib] <;>
    repeat' first | rw [placeAt_and_clear _ _ (by decide)] | rw [placeAt_and_set _ _ (by decide)]
  all_goals simp

theorem encRI21_bits (o1 : BitVec 6) (ra : Reg) (i : BitVec 21) :
    encRI21 o1 ra i &&& 0xfc000000#32 = placeAt 26 o1 ∧ encRI21 o1 ra i &&& ~~~(0xfc000000#32 ||| 0x03ffffff#32) = 0#32 := by
  constructor <;> unfold encRI21 <;> simp only [or_and_distrib] <;>
    repeat' first | rw [placeAt_and_clear _ _ (by decide)] | rw [placeAt_and_set _ _ (by decide)]
  all_goals simp

theorem lhi (ra : Reg) (i : BitVec 21) : Statement (.lhi ra i) :=
  ⟨(encRI21_bits _ ra i).1.trans rfl, (encRI21_bits _ ra i).2⟩
theorem j (ra : Reg) (i : BitVec 21) : Statement (.j ra i) :=
  ⟨(encRI21_bits _ ra i).1.trans rfl, (encRI21_bits _ ra i).2⟩
theorem ja (ra rb : Reg) (i : BitVec 10) : Statement (.ja ra rb i) :=
  ⟨(encRRI10_bits _ _ ra rb i).1.trans rfl, (encRRI10_bits _ _ ra rb i).2⟩
theorem beq (rb ra : Reg) (i : BitVec 10) : Statement (.beq rb ra i) :=
  ⟨(encRRI10_bits _ _ ra rb i).1.trans rfl, (encRRI10_bits _ _ ra rb i).2⟩
theorem bne (rb ra : Reg) (i : BitVec 10) : Statement (.bne rb ra i) :=
  ⟨(encRRI10_bits _ _ ra rb i).1.trans rfl, (encRRI10_bits _ _ ra rb i).2⟩
theorem blt (rb ra : Reg) (i : BitVec 10) : Statement (.blt rb ra i) :=
  ⟨(encRRI10_bits _ _ ra rb i).1.trans rfl, (encRRI10_bits _ _ ra rb i).2⟩
theorem bge (rb ra : Reg) (i : BitVec 10) : Statement (.bge rb ra i) :=
  ⟨(encRRI10_bits _ _ ra rb i).1.trans rfl, (encRRI10_bits _ _ ra rb i).2⟩
theorem bltu (rb ra : Reg) (i : BitVec 10) : Statement (.bltu rb ra i) :=
  ⟨(encRRI10_bits _ _ ra rb i).1.trans rfl, (encRRI10_bits _ _ ra rb i).2⟩
theorem bgeu (rb ra : Reg) (i : BitVec 10) : Statement (.bgeu rb ra i) :=
  ⟨(encRRI10_bits _ _ ra rb i).1.trans rfl, (encRRI10_bits _ _ ra rb i).2⟩
theorem beqi (rb : Reg) (n : BitVec 5) (i : BitVec 10) : Statement (.beqi rb n i) :=
  ⟨(encRRI10_bits _ _ n rb i).1.trans rfl, (encRRI10_bits _ _ n rb i).2⟩
theorem bnei (rb : Reg) (n : BitVec 5) (i : BitVec 10) : Statement (.bnei rb n i) :=
  ⟨(encRRI10_bits _ _ n rb i).1.trans rfl, (encRRI10_bits _ _ n rb i).2⟩
theorem blti (rb : Reg) (n : BitVec 5) (i : BitVec 10) : Statement (.blti rb n i) :=
  ⟨(encRRI10_bits _ _ n rb i).1.trans rfl, (encRRI10_bits _ _ n rb i).2⟩
theorem bgei (rb : Reg) (n : BitVec 5) (i : BitVec 10) : Statement (.bgei rb n i) :=
  ⟨(encRRI10_bits _ _ n rb i).1.trans rfl, (encRRI10_bits _ _ n rb i).2⟩
theorem bequi (rb : Reg) (n : BitVec 5) (i : BitVec 10) : Statement (.bequi rb n i) :=
  ⟨(encRRI10_bits _ _ n rb i).1.trans rfl, (encRRI10_bits _ _ n rb i).2⟩
theorem bneui (rb : Reg) (n : BitVec 5) (i : BitVec 10) : Statement (.bneui rb n i) :=
  ⟨(encRRI10_bits _ _ n rb i).1.trans rfl, (encRRI10_bits _ _ n rb i).2⟩
theorem bltui (rb : Reg) (n : BitVec 5) (i : BitVec 10) : Statement (.bltui rb n i) :=
  ⟨(encRRI10_bits _ _ n rb i).1.trans rfl, (encRRI10_bits _ _ n rb i).2⟩
theorem bgeui (rb : Reg) (n : BitVec 5) (i : BitVec 10) : Statement (.bgeui rb n i) :=
  ⟨(encRRI10_bits _ _ n rb i).1.trans rfl, (encRRI10_bits _ _ n rb i).2⟩
theorem add (ra rb rc : Reg) : Statement (.add ra rb rc) :=
  ⟨(encRRR_bits _ _ ra rb rc).1.trans rfl, (encRRR_bits _ _ ra rb rc).2⟩
theorem addi (ra rb : Reg) (i : BitVec 10) : Statement (.addi ra rb i) :=
  ⟨(encRRI10_bits _ _ ra rb i).1.trans rfl, (encRRI10_bits _ _ ra rb i).2⟩
theorem sub (ra rb rc : Reg) : Statement (.sub ra rb rc) :=
  ⟨(encRRR_bits _ _ ra rb rc).1.trans rfl, (encRRR_bits _ _ ra rb rc).2⟩
theorem mulu (rh ra rb rc : Reg) : Statement (.mulu rh ra rb rc) :=
  ⟨(encRRRR_bits _ _ rh ra rb rc).1.trans rfl, (encRRRR_bits _ _ rh ra rb rc).2⟩
theorem mul : Statement (.mul) := ⟨by decide, by decide⟩
theorem seq (ra rb rc : Reg) : Statement (.seq ra rb rc) :=
  ⟨(encRRR_bits _ _ ra rb rc).1.trans rfl, (encRRR_bits _ _ ra rb rc).2⟩
theorem sne (ra rb rc : Reg) : Statement (.sne ra rb rc) :=
  ⟨(encRRR_bits _ _ ra rb rc).1.trans rfl, (encRRR_bits _ _ ra rb rc).2⟩
theorem slt (ra rb rc : Reg) : Statement (.slt ra rb rc) :=
  ⟨(encRRR_bits _ _ ra rb rc).1.trans rfl, (encRRR_bits _ _ ra rb rc).2⟩
theorem sge (ra rb rc : Reg) : Statement (.sge ra rb rc) :=
  ⟨(encRRR_bits _ _ ra rb rc).1.trans rfl, (encRRR_bits _ _ ra rb rc).2⟩
theorem sltu (ra rb rc : Reg) : Statement (.sltu ra rb rc) :=
  ⟨(encRRR_bits _ _ ra rb rc).1.trans rfl, (encRRR_bits _ _ ra rb rc).2⟩
theorem sgeu (ra rb rc : Reg) : Statement (.sgeu ra rb rc) :=
  ⟨(encRRR_bits _ _ ra rb rc).1.trans rfl, (encRRR_bits _ _ ra rb rc).2⟩
theorem and (ra rb rc : Reg) : Statement (.and ra rb rc) :=
  ⟨(encRRR_bits _ _ ra rb rc).1.trans rfl, (encRRR_bits _ _ ra rb rc).2⟩
theorem or (ra rb rc : Reg) : Statement (.or ra rb rc) :=
  ⟨(encRRR_bits _ _ ra rb rc).1.trans rfl, (encRRR_bits _ _ ra rb rc).2⟩
theorem xor (ra rb rc : Reg) : Statement (.xor ra rb rc) :=
  ⟨(encRRR_bits _ _ ra rb rc).1.trans rfl, (encRRR_bits _ _ ra rb rc).2⟩
theorem andn (ra rb rc : Reg) : Statement (.andn ra rb rc) :=
  ⟨(encRRR_bits _ _ ra rb rc).1.trans rfl, (encRRR_bits _ _ ra rb rc).2⟩
theorem andi (ra rb : Reg) (i : BitVec 16) : Statement (.andi ra rb i) :=
  ⟨(encRRI16_bits _ ra rb i).1.trans rfl, (encRRI16_bits _ ra rb i).2⟩
theorem ori (ra rb : Reg) (i : BitVec 16) : Statement (.ori ra rb i) :=
  ⟨(encRRI16_bits _ ra rb i).1.trans rfl, (encRRI16_bits _ ra rb i).2⟩
theorem xori (ra rb : Reg) (i : BitVec 16) : Statement (.xori ra rb i) :=
  ⟨(encRRI16_bits _ ra rb i).1.trans rfl, (encRRI16_bits _ ra rb i).2⟩
theorem sll (ra rb rc : Reg) : Statement (.sll ra rb rc) :=
  ⟨(encRRR_bits _ _ ra rb rc).1.trans rfl, (encRRR_bits _ _ ra rb rc).2⟩
theorem slr (ra rb rc : Reg) : Statement (.slr ra rb rc) :=
  ⟨(encRRR_bits _ _ ra rb rc).1.trans rfl, (encRRR_bits _ _ ra rb rc).2⟩
theorem sar (ra rb rc : Reg) : Statement (.sar ra rb rc) :=
  ⟨(encRRR_bits _ _ ra rb rc).1.trans rfl, (encRRR_bits _ _ ra rb rc).2⟩
theorem slli (ra rb : Reg) (u5 : BitVec 5) : Statement (.slli ra rb u5) :=
  ⟨(encRRI5_bits _ _ ra rb u5).1.trans rfl, (encRRI5_bits _ _ ra rb u5).2⟩
theorem slri (ra rb : Reg) (u5 : BitVec 5) : Statement (.slri ra rb u5) :=
  ⟨(encRRI5_bits _ _ ra rb u5).1.trans rfl, (encRRI5_bits _ _ ra rb u5).2⟩
theorem sari (ra rb : Reg) (u5 : BitVec 5) : Statement (.sari ra rb u5) :=
  ⟨(encRRI5_bits _ _ ra rb u5).1.trans rfl, (encRRI5_bits _ _ ra rb u5).2⟩
theorem lr8 (ra rb rc : Reg) : Statement (.lr8 ra rb rc) :=
  ⟨(encRRR_bits _ _ ra rb rc).1.trans rfl, (encRRR_bits _ _ ra rb rc).2⟩
theorem lr8u (ra rb rc : Reg) : Statement (.lr8u ra rb rc) :=
  ⟨(encRRR_bits _ _ ra rb rc).1.trans rfl, (encRRR_bits _ _ ra rb rc).2⟩
theorem lr16 (ra rb rc : Reg) : Statement (.lr16 ra rb rc) :=
  ⟨(encRRR_bits _ _ ra rb rc).1.trans rfl, (encRRR_bits _ _ ra rb rc).2⟩
theorem lr16u (ra rb rc : Reg) : Statement (.lr16u ra rb rc) :=
  ⟨(encRRR_bits _ _ ra rb rc).1.trans rfl, (encRRR_bits _ _ ra rb rc).2⟩
theorem lr32 (ra rb rc : Reg) : Statement (.lr32 ra rb rc) :=
  ⟨(encRRR_bits _ _ ra rb rc).1.trans rfl, (encRRR_bits _ _ ra rb rc).2⟩
theorem lx16 (ra rb rc : Reg) : Statement (.lx16 ra rb rc) :=
  ⟨(encRRR_bits _ _ ra rb rc).1.trans rfl, (encRRR_bits _ _ ra rb rc).2⟩
theorem lx16u (ra rb rc : Reg) : Statement (.lx16u ra rb rc) :=
  ⟨(encRRR_bits _ _ ra rb rc).1.trans rfl, (encRRR_bits _ _ ra rb rc).2⟩
theorem lx32 (ra rb rc : Reg) : Statement (.lx32 ra rb rc) :=
  ⟨(encRRR_bits _ _ ra rb rc).1.trans rfl, (encRRR_bits _ _ ra rb rc).2⟩
theorem ld8 (ra rb : Reg) (i : BitVec 10) : Statement (.ld8 ra rb i) :=
  ⟨(encRRI10_bits _ _ ra rb i).1.trans rfl, (encRRI10_bits _ _ ra rb i).2⟩
theorem ld8u (ra rb : Reg) (i : BitVec 10) : Statement (.ld8u ra rb i) :=
  ⟨(encRRI10_bits _ _ ra rb i).1.trans rfl, (encRRI10_bits _ _ ra rb i).2⟩
theorem ld16 (ra rb : Reg) (i : BitVec 10) : Statement (.ld16 ra rb i) :=
  ⟨(encRRI10_bits _ _ ra rb i).1.trans rfl, (encRRI10_bits _ _ ra rb i).2⟩
theorem ld16u (ra rb : Reg) (i : BitVec 10) : Statement (.ld16u ra rb i) :=
  ⟨(encRRI10_bits _ _ ra rb i).1.trans rfl, (encRRI10_bits _ _ ra rb i).2⟩
theorem ld32 (ra rb : Reg) (i : BitVec 10) : Statement (.ld32 ra rb i) :=
  ⟨(encRRI10_bits _ _ ra rb i).1.trans rfl, (encRRI10_bits _ _ ra rb i).2⟩
theorem sr8 (ra rb rc : Reg) : Statement (.sr8 ra rb rc) :=
  ⟨(encRRR_bits _ _ ra rb rc).1.trans rfl, (encRRR_bits _ _ ra rb rc).2⟩
theorem sr16 (ra rb rc : Reg) : Statement (.sr16 ra rb rc) :=
  ⟨(encRRR_bits _ _ ra rb rc).1.trans rfl, (encRRR_bits _ _ ra rb rc).2⟩
theorem sr32 (ra rb rc : Reg) : Statement (.sr32 ra rb rc) :=
  ⟨(encRRR_bits _ _ ra rb rc).1.trans rfl, (encRRR_bits _ _ ra rb rc).2⟩
theorem sx16 (ra rb rc : Reg) : Statement (.sx16 ra rb rc) :=
  ⟨(encRRR_bits _ _ ra rb rc).1.trans rfl, (encRRR_bits _ _ ra rb rc).2⟩
theorem sx32 (ra rb rc : Reg) : Statement (.sx32 ra rb rc) :=
  ⟨(encRRR_bits _ _ ra rb rc).1.trans rfl, (encRRR_bits _ _ ra rb rc).2⟩
theorem sd8 (ra rb : Reg) (i : BitVec 10) : Statement (.sd8 ra rb i) :=
  ⟨(encRRI10_bits _ _ ra rb i).1.trans rfl, (encRRI10_bits _ _ ra rb i).2⟩
theorem sd16 (ra rb : Reg) (i : BitVec 10) : Statement (.sd16 ra rb i) :=
  ⟨(encRRI10_bits _ _ ra rb i).1.trans rfl, (encRRI10_bits _ _ ra rb i).2⟩
theorem sd32 (ra rb : Reg) (i : BitVec 10) : Statement (.sd32 ra rb i) :=
  ⟨(encRRI10_bits _ _ ra rb i).1.trans rfl, (encRRI10_bits _ _ ra rb i).2⟩
theorem mvz (ra rb rc : Reg) : Statement (.mvz ra rb rc) :=
  ⟨(encRRR_bits _ _ ra rb rc).1.trans rfl, (encRRR_bits _ _ ra rb rc).2⟩
theorem mvnz (ra rb rc : Reg) : Statement (.mvnz ra rb rc) :=
  ⟨(encRRR_bits _ _ ra rb rc).1.trans rfl, (encRRR_bits _ _ ra rb rc).2⟩
theorem csb (ra rb : Reg) : Statement (.csb ra rb) :=
  ⟨(encRR_bits _ _ ra rb).1.trans rfl, (encRR_bits _ _ ra rb).2⟩
theorem brev (ra rb : Reg) : Statement (.brev ra rb) :=
  ⟨(encRR_bits _ _ ra rb).1.trans rfl, (encRR_bits _ _ ra rb).2⟩
theorem swap (ra rb : Reg) (i : BitVec 10) : Statement (.swap ra rb i) :=
  ⟨(encRRI10_bits _ _ ra rb i).1.trans rfl, (encRRI10_bits _ _ ra rb i).2⟩
theorem trap (ra : Reg) (i : BitVec 10) : Statement (.trap ra i) :=
  ⟨(encTRAP_bits _ _ ra i).1.trans rfl, (encTRAP_bits _ _ ra i).2⟩
theorem sbrk : Statement (.sbrk) := ⟨by decide, by decide⟩
theorem rte : Statement (.rte) := ⟨by decide, by decide⟩
theorem sleep : Statement (.sleep) := ⟨by decide, by decide⟩
theorem rcr (ra : Reg) (cr : BitVec 5) : Statement (.rcr ra cr) :=
  ⟨(encCR_bits _ _ ra cr).1.trans rfl, (encCR_bits _ _ ra cr).2⟩
theorem wcr (ra : Reg) (cr : BitVec 5) : Statement (.wcr ra cr) :=
  ⟨(encCR_bits _ _ ra cr).1.trans rfl, (encCR_bits _ _ ra cr).2⟩
theorem cld (ra : Reg) (id : BitVec 3) (n : BitVec 10) : Statement (.cld ra id n) :=
  ⟨(encMCR_bits _ _ ra id n).1.trans rfl, (encMCR_bits _ _ ra id n).2⟩
theorem cst (ra : Reg) (id : BitVec 3) (n : BitVec 10) : Statement (.cst ra id n) :=
  ⟨(encMCR_bits _ _ ra id n).1.trans rfl, (encMCR_bits _ _ ra id n).2⟩
theorem itlb (cmd : BitVec 4) (rb : Reg) : Statement (.itlb cmd rb) :=
  ⟨(encTLB_bits _ _ cmd rb).1.trans rfl, (encTLB_bits _ _ cmd rb).2⟩
theorem dtlb (cmd : BitVec 4) (rb : Reg) : Statement (.dtlb cmd rb) :=
  ⟨(encTLB_bits _ _ cmd rb).1.trans rfl, (encTLB_bits _ _ cmd rb).2⟩
theorem icache (cmd : BitVec 4) (rb : Reg) (i : BitVec 10) : Statement (.icache cmd rb i) :=
  ⟨(encCACHE_bits _ _ cmd rb i).1.trans rfl, (encCACHE_bits _ _ cmd rb i).2⟩
theorem dcache (cmd : BitVec 4) (rb : Reg) (i : BitVec 10) : Statement (.dcache cmd rb i) :=
  ⟨(encCACHE_bits _ _ cmd rb i).1.trans rfl, (encCACHE_bits _ _ cmd rb i).2⟩

end EncodesItsRow

end Sys2Proof.Laws
end

