-- ==== Sys2Proof/Laws/Step.lean ====
section
/-! SUPPORT. What a step can do, said once: `step_cases` for the step, `exec_cases` for an instruction. Every statement
over all steps is a case analysis on these two. -/

namespace Sys2Proof.Machine

open Sys2Proof

/-! ## The boundary -/

variable (s : State) in
@[simp] theorem Boundary_regs : (Boundary s).regs = s.regs := rfl
variable (s : State) in
@[simp] theorem Boundary_pc : (Boundary s).pc = s.pc := rfl
variable (s : State) in
@[simp] theorem Boundary_sr : (Boundary s).sr = s.sr := rfl
variable (s : State) in
@[simp] theorem Boundary_esr : (Boundary s).esr = s.esr := rfl
variable (s : State) in
@[simp] theorem Boundary_epc : (Boundary s).epc = s.epc := rfl
variable (s : State) in
@[simp] theorem Boundary_dsr : (Boundary s).dsr = s.dsr := rfl
variable (s : State) in
@[simp] theorem Boundary_dpc : (Boundary s).dpc = s.dpc := rfl
variable (s : State) in
@[simp] theorem Boundary_sleeping : (Boundary s).sleeping = s.sleeping := rfl
variable (s : State) in
@[simp] theorem Boundary_intRequests : (Boundary s).intRequests = s.intRequests.tail := rfl
variable (s : State) in
@[simp] theorem Boundary_mem : (Boundary s).mem = s.mem := rfl
variable (s : State) in
@[simp] theorem Boundary_stored : (Boundary s).stored = s.stored := rfl
variable (s : State) in
@[simp] theorem Boundary_moduleLog : (Boundary s).moduleLog = s.moduleLog := rfl
variable (s : State) in
@[simp] theorem Boundary_commandLog : (Boundary s).commandLog = s.commandLog := rfl
variable (s : State) in
@[simp] theorem Boundary_cfg : (Boundary s).cfg = s.cfg := rfl
variable (s : State) in
@[simp] theorem Boundary_mode : (Boundary s).mode = s.mode := rfl
variable (s : State) in
@[simp] theorem Boundary_readSr : (Boundary s).readSr = s.readSr := rfl
variable (s : State) in
@[simp] theorem Boundary_reg (r : Reg) : (Boundary s).reg r = s.reg r := rfl
variable (s : State) in
@[simp] theorem Boundary_wordAt (a : Word) : (Boundary s).wordAt a = s.wordAt a := rfl

/-! ## The fetch -/

theorem State.modified_false_iff (s : State) (a : Word) :
    s.modified a = false ↔ ∀ k : Nat, k < 4 → isStored s.stored (a + BitVec.ofNat 32 k) = false := by
  unfold State.modified
  simp only [Bool.or_eq_false_iff]
  constructor
  · rintro ⟨⟨⟨h0, h1⟩, h2⟩, h3⟩ k hk
    interval_cases k
    · simpa using h0
    · exact h1
    · exact h2
    · exact h3
  · intro h
    exact ⟨⟨⟨by simpa using h 0 (by decide), h 1 (by decide)⟩, h 2 (by decide)⟩, h 3 (by decide)⟩

theorem State.decodeBytes_bytesAt (s : State) (a : Word) :
    decodeBytes s.cfg.endian (s.bytesAt a) = decode (s.wordAt a) := rfl

theorem FetchesAt_sampled {s : State} (h : FetchesAt s) :
    s.takesInterrupt = false ∧ fetchInstr s.sampled = (match decode (s.wordAt s.pc) with
      | .ok i => .instr i
      | .error e => .ends (rejectEncoding s.sampled e)) := by
  obtain ⟨h1, h2, h3, h4, h5⟩ := h
  refine ⟨?_, ?_⟩
  · unfold State.takesInterrupt State.intRequest
    rcases h1 with h1 | h1 <;> rw [h1] <;> simp
  · have hm : (!s.cfg.ifetchCoherent && s.modified s.pc) = false := by
      rcases h5 with h5 | h5
      · rw [h5]; rfl
      · rw [(State.modified_false_iff s s.pc).mpr h5, Bool.and_false]
    have hm' : (!s.sampled.cfg.ifetchCoherent && s.sampled.modified s.sampled.pc) = false := hm
    have h4' : accessFault s.sampled.cfg .fetch s.sampled.pc .word s.sampled.mode = false := h4
    have h3' : isAligned s.sampled.pc .word = true := h3
    unfold fetchInstr
    rw [h3', h4', hm']
    rfl

/-- Where the fetch goes through, the step is what becomes of the word (R118). -/
theorem step_fetched {s : State} (h : FetchesAt s) :
    step s = (match decode (s.wordAt s.pc) with
      | .ok i => exec i (Boundary s)
      | .error e => rejectEncoding (Boundary s) e) := by
  obtain ⟨h1, h2⟩ := FetchesAt_sampled h
  have hs : s.sleeping = false := h.2.1
  have hb : Boundary s = s.sampled := rfl
  unfold step
  rw [h1, hs, h2, hb]
  cases decode (s.wordAt s.pc) <;> rfl

theorem fetchInstr_instr {s : State} {i : Instr} (h : fetchInstr s = .instr i) :
    isAligned s.pc .word = true ∧ accessFault s.cfg .fetch s.pc .word s.mode = false ∧
      (s.cfg.ifetchCoherent = true ∨ ∀ k : Nat, k < 4 → isStored s.stored (s.pc + BitVec.ofNat 32 k) = false) ∧
      decode (s.wordAt s.pc) = .ok i := by
  unfold fetchInstr at h
  split at h
  · next h1 =>
    split at h
    · cases h
    · next h2 =>
      split at h
      · cases h
      · next h3 =>
        rw [State.decodeBytes_bytesAt] at h
        split at h
        · next j hj =>
          injection h with h
          subst h
          refine ⟨h1, by simpa using h2, ?_, hj⟩
          cases hc : s.cfg.ifetchCoherent
          · right
            rw [hc] at h3
            rw [← State.modified_false_iff]
            simpa using h3
          · exact .inl rfl
        · cases h
  · split at h <;> cases h

theorem fetchInstr_ends {s t : State} (h : fetchInstr s = .ends (.next t)) :
    ∃ e : Exc, e.isDebug = false ∧ enter e s.pc s = .next t := by
  unfold fetchInstr at h
  split at h
  · split at h
    · injection h with h; exact ⟨.ifault, rfl, h⟩
    · split at h
      · cases h
      · split at h
        · cases h
        · next e _ =>
          injection h with h
          unfold rejectEncoding at h
          split at h
          · exact ⟨.illins, rfl, h⟩
          · exact ⟨.illins, rfl, h⟩
          · cases h
          · rcases supervisorOnly_next h with ⟨_, h⟩ | ⟨_, h⟩
            · cases h
            · exact ⟨.illins, rfl, h⟩
  · split at h
    · cases h
    · injection h with h; exact ⟨.ifault, rfl, h⟩

/-! ## The step -/

/-- All that a step can do: take an interrupt, idle, run the instruction at the pc, or enter an exception of the fetch. -/
theorem step_cases {s t : State} (h : step s = .next t) :
    (s.intRequests.headD false = true ∧ s.ie = true ∧ enter .int s.pc { Boundary s with sleeping := false } = .next t) ∨
    (s.sleeping = true ∧ t = Boundary s) ∨
    (∃ i : Instr, FetchesAt s ∧ decode (s.wordAt s.pc) = .ok i ∧ exec i (Boundary s) = .next t) ∨
    (s.sleeping = false ∧ ∃ e : Exc, e.isDebug = false ∧ enter e s.pc (Boundary s) = .next t) := by
  unfold step at h
  split at h
  · next ht =>
    left
    unfold State.takesInterrupt State.intRequest at ht
    rw [Bool.and_eq_true] at ht
    exact ⟨ht.1, ht.2, h⟩
  · next ht =>
    right
    split at h
    · next hsl => injection h with h; exact .inl ⟨hsl, h.symm⟩
    · next hsl =>
      right
      split at h
      · next i hi =>
        left
        obtain ⟨h1, h2, h3, h4⟩ := fetchInstr_instr hi
        refine ⟨i, ⟨?_, by simpa using hsl, h1, h2, h3⟩, h4, h⟩
        unfold State.takesInterrupt State.intRequest at ht
        cases hr : s.intRequests.headD false
        · exact .inl rfl
        · rw [hr] at ht; exact .inr (by simpa using ht)
      · next r hr =>
        right
        rw [h] at hr
        exact ⟨by simpa using hsl, fetchInstr_ends hr⟩

/-! ## An instruction -/

/-- What an instruction that touches no control register leaves alone. -/
structure Ordinary (s t : State) : Prop where
  control : SameControl s t
  sleeping : t.sleeping = s.sleeping
  intRequests : t.intRequests = s.intRequests
  cfg : t.cfg = s.cfg
  canonical : s.Canonical → t.Canonical

theorem Ordinary.writeAndAdvance {s u : State} {r : Reg} {v : Word} (h : Ordinary s u) :
    Ordinary s (u.setReg r v).advance := by
  obtain ⟨⟨a, b, c, d, e⟩, g1, g2, g3, g4⟩ := h
  refine ⟨⟨?_, ?_, ?_, ?_, ?_⟩, ?_, ?_, ?_, ?_⟩
  all_goals first
    | (intro hc; have := g4 hc; unfold State.Canonical at *; simpa using this)
    | simpa

theorem Ordinary.jump {s u : State} {t : Word} (h : Ordinary s u) : Ordinary s (u.jump t) :=
  ⟨h.control, h.sleeping, h.intRequests, h.cfg, h.canonical⟩

theorem Ordinary.refl (s : State) : Ordinary s s := ⟨⟨rfl, rfl, rfl, rfl, rfl⟩, rfl, rfl, rfl, id⟩

theorem Ordinary.setReg (s : State) (r : Reg) (v : Word) : Ordinary s (s.setReg r v) := by
  refine ⟨by simp [SameControl], by simp, by simp, by simp, ?_⟩
  unfold State.Canonical; simp

theorem Ordinary.storeByte (s : State) (a : Word) (b : Byte) : Ordinary s (s.storeByte a b) :=
  ⟨⟨rfl, rfl, rfl, rfl, rfl⟩, rfl, rfl, rfl, fun h => State.canonical_storeByte h a b⟩

theorem Ordinary.storeHalf (s : State) (a : Word) (v : Half) : Ordinary s (s.storeHalf a v) :=
  ⟨by simp [SameControl], by simp, by simp, by simp, fun h => State.canonical_storeHalf h a v⟩

theorem Ordinary.storeWord (s : State) (a : Word) (v : Word) : Ordinary s (s.storeWord a v) :=
  ⟨by simp [SameControl], by simp, by simp, by simp, fun h => State.canonical_storeWord h a v⟩

/-- What an instruction does to the module and command channels: nothing, or, outside user mode or by an unprivileged
cache command, one entry more. -/
def Channels (s t : State) : Prop :=
  (t.moduleLog = s.moduleLog ∨ s.mode = .supervisor) ∧
    (t.commandLog = s.commandLog ∨ s.mode = .supervisor ∨ ∃ (u : CommandUnit) (cmd : BitVec 4) (a : Word),
      (u = .icache ∨ u = .dcache) ∧ findCommand s.cfg u cmd = some ⟨u, cmd, false⟩ ∧
        t.commandLog = ⟨u, cmd, a⟩ :: s.commandLog)

theorem Channels.of_eq {s t : State} (h1 : t.moduleLog = s.moduleLog) (h2 : t.commandLog = s.commandLog) : Channels s t :=
  ⟨.inl h1, .inl h2⟩

/-- Where an instruction without exception goes: on, to a scaled relative target, or, JA, anywhere. -/
def PcMoves (i : Instr) (s t : State) : Prop :=
  t.pc = s.pc + 4#32 ∨ (∃ k : Word, t.pc = s.pc + 4#32 + (k <<< 2)) ∨ ∃ ra rb u10, i = .ja ra rb u10

/-- The instructions that write memory (R65). -/
def writesMemory (i : Instr) : Prop :=
  (∃ ra rb rc, i = .sr8 ra rb rc ∨ i = .sr16 ra rb rc ∨ i = .sr32 ra rb rc ∨ i = .sx16 ra rb rc ∨ i = .sx32 ra rb rc) ∨
    ∃ ra rb imm, i = .sd8 ra rb imm ∨ i = .sd16 ra rb imm ∨ i = .sd32 ra rb imm ∨ i = .swap ra rb imm

/-- What an instruction that enters no exception and touches no control register does. -/
structure Plain (i : Instr) (s t : State) : Prop where
  ordinary : Ordinary s t
  channels : Channels s t
  pc : PcMoves i s t
  memory : writesMemory i ∨ (t.mem = s.mem ∧ t.stored = s.stored)

/-- An exception entered from the state `u` that an instruction has left, which differs from `s` in a register at most. -/
def Entered (s t : State) : Prop :=
  ∃ (e : Exc) (ret : Word) (u : State), e ≠ .dboot ∧ (u = s ∨ ∃ r v, u = s.setReg r v) ∧ enter e ret u = .next t

/-- What every exception entry leaves (R346). -/
theorem Entered.spec {s t : State} (h : Entered s t) : ∃ e : Exc, e ≠ .dboot ∧
    (t.esr = s.readSr ∧ t.ds = false ∨ t.dsr = s.readSr ∧ t.ds = true) ∧ t.ie = false ∧ t.mode = .supervisor ∧
    t.pc = s.wordAt (s.vectorBase e + e.offset) ∧ t.sr &&& ~~~srStorage = 0#32 ∧ t.sleeping = s.sleeping ∧ t.cfg = s.cfg ∧
    t.mem = s.mem ∧ t.stored = s.stored := by
  obtain ⟨e, ret, u, he, hu, h⟩ := h
  have := enter_next h
  subst this
  obtain ⟨b1, b2, b3, b4, b5, b6⟩ := u.saveContext_bits e ret
  have hr : u.readSr = s.readSr ∧ (∀ a, u.wordAt a = s.wordAt a) ∧ u.vectorBase e = s.vectorBase e ∧
      u.sleeping = s.sleeping ∧ u.cfg = s.cfg ∧ u.mem = s.mem ∧ u.stored = s.stored := by
    rcases hu with rfl | ⟨r, v, rfl⟩
    · exact ⟨rfl, fun _ => rfl, rfl, rfl, rfl, rfl, rfl⟩
    · exact ⟨by simp, fun a => by simp, by simp [State.vectorBase], by simp, by simp, by simp, by simp⟩
  obtain ⟨hr1, hr2, hr3, hr4, hr5, hr6, hr7⟩ := hr
  refine ⟨e, he, ?_, by simpa using b1, by simpa using b2, by simp [hr2, hr3], by simpa using b6, by simpa using hr4,
    by simpa using hr5, by simpa using hr6, by simpa using hr7⟩
  cases hd : e.isDebug
  · left
    simp [State.saveContext_nonDebug (s := u) (ret := ret) hd, hr1, b3, hd]
  · right
    simp [State.saveContext_debug (s := u) (ret := ret) hd, hr1, b3, hd]

/-- All that an instruction can do. -/
theorem exec_cases {i : Instr} {s t : State} (h : exec i s = .next t) :
    Entered s t ∨
    (i = .rte ∧ s.mode = .supervisor ∧ t = s.returnFromException) ∨
    (∃ ra cr u, i = .wcr ra cr ∧ s.mode = .supervisor ∧ s.writeCr cr (s.reg ra) = some u ∧ t = u.advance) ∨
    (i = .sleep ∧ s.mode = .supervisor ∧ s.ie = true ∧ t = { s.advance with sleeping := true }) ∨
    Plain i s t := by
  have wa : ∀ {r v}, writeAndAdvance s r v = .next t → Plain i s t := by
    intro r v h
    injection h with h; subst h
    exact ⟨(Ordinary.refl s).writeAndAdvance, Channels.of_eq (by simp) (by simp), .inl (by simp), .inr (by simp)⟩
  have br : ∀ {c s10}, branchIf s c s10 = .next t → Plain i s t := by
    intro c s10 h
    injection h with h; subst h
    refine ⟨(Ordinary.refl s).jump, Channels.of_eq rfl rfl, ?_, .inr ⟨rfl, rfl⟩⟩
    cases c
    · exact .inl rfl
    · exact .inr (.inl ⟨sext32 s10, rfl⟩)
  have df : ∀ {e ret}, e ≠ Exc.dboot → enter e ret s = .next t → Entered s t := fun he h => ⟨_, _, s, he, .inl rfl, h⟩
  have ld : ∀ {r a z v}, loadInto s r a z v = .next t → Entered s t ∨ Plain i s t := by
    intro r a z v h
    rcases withAccess_next h with h | h
    · exact .inr (wa h)
    · exact .inl (df (by decide) h)
  have st : ∀ {a z u}, writesMemory i → Ordinary s u → u.moduleLog = s.moduleLog → u.commandLog = s.commandLog →
      u.pc = s.pc → storeTo s a z u = .next t → Entered s t ∨ Plain i s t := by
    intro a z u hw hu h1 h2 h3 h
    rcases withAccess_next h with h | h
    · injection h with h; subst h
      exact .inr ⟨hu.jump, Channels.of_eq h1 h2, .inl (by rw [State.advance_pc, h3]), .inl hw⟩
    · exact .inl (df (by decide) h)
  have wrap : Entered s t ∨ Plain i s t → Entered s t ∨
      (i = .rte ∧ s.mode = .supervisor ∧ t = s.returnFromException) ∨
      (∃ ra cr u, i = .wcr ra cr ∧ s.mode = .supervisor ∧ s.writeCr cr (s.reg ra) = some u ∧ t = u.advance) ∨
      (i = .sleep ∧ s.mode = .supervisor ∧ s.ie = true ∧ t = { s.advance with sleeping := true }) ∨
      Plain i s t := by
    rintro (h | h)
    · exact .inl h
    · exact .inr (.inr (.inr (.inr h)))
  cases i
  case lhi => exact wrap (.inr (wa h))
  case j ra i21 =>
    injection h with h; subst h
    exact wrap (.inr ⟨(Ordinary.setReg s _ _).jump, Channels.of_eq (by simp) (by simp), .inr (.inl ⟨sext32 i21, rfl⟩),
      .inr (by simp)⟩)
  case ja ra rb i10 =>
    injection h with h; subst h
    exact wrap (.inr ⟨(Ordinary.setReg s _ _).jump, Channels.of_eq (by simp) (by simp), .inr (.inr ⟨ra, rb, i10, rfl⟩),
      .inr (by simp)⟩)
  case beq => exact wrap (.inr (br h))
  case bne => exact wrap (.inr (br h))
  case blt => exact wrap (.inr (br h))
  case bge => exact wrap (.inr (br h))
  case bltu => exact wrap (.inr (br h))
  case bgeu => exact wrap (.inr (br h))
  case beqi => exact wrap (.inr (br h))
  case bnei => exact wrap (.inr (br h))
  case blti => exact wrap (.inr (br h))
  case bgei => exact wrap (.inr (br h))
  case bequi => exact wrap (.inr (br h))
  case bneui => exact wrap (.inr (br h))
  case bltui => exact wrap (.inr (br h))
  case bgeui => exact wrap (.inr (br h))
  case mulu rh ra rb rc =>
    simp only [exec, execMulu] at h
    split at h
    · injection h with h; subst h
      exact wrap (.inr ⟨(Ordinary.setReg s _ _).writeAndAdvance, Channels.of_eq (by simp) (by simp), .inl (by simp),
        .inr (by simp)⟩)
    · cases h
  case mul => cases h
  case lr8 => simp only [exec, execLr8] at h; exact wrap (ld h)
  case lr8u => simp only [exec, execLr8u] at h; exact wrap (ld h)
  case lr16 => exact wrap (ld h)
  case lr16u => exact wrap (ld h)
  case lr32 => exact wrap (ld h)
  case lx16 => exact wrap (ld h)
  case lx16u => exact wrap (ld h)
  case lx32 => exact wrap (ld h)
  case ld8 => simp only [exec, execLd8] at h; exact wrap (ld h)
  case ld8u => simp only [exec, execLd8u] at h; exact wrap (ld h)
  case ld16 => exact wrap (ld h)
  case ld16u => exact wrap (ld h)
  case ld32 => exact wrap (ld h)
  case sr8 ra rb rc =>
    simp only [exec, execSr8] at h; exact wrap (st (.inl ⟨ra, rb, rc, .inl rfl⟩) (Ordinary.storeByte s _ _) (by simp) (by simp) (by simp) h)
  case sr16 ra rb rc =>
    exact wrap (st (.inl ⟨ra, rb, rc, .inr (.inl rfl)⟩) (Ordinary.storeHalf s _ _) (by simp) (by simp) (by simp) h)
  case sr32 ra rb rc =>
    exact wrap (st (.inl ⟨ra, rb, rc, .inr (.inr (.inl rfl))⟩) (Ordinary.storeWord s _ _) (by simp) (by simp) (by simp) h)
  case sx16 ra rb rc =>
    exact wrap (st (.inl ⟨ra, rb, rc, .inr (.inr (.inr (.inl rfl)))⟩) (Ordinary.storeHalf s _ _) (by simp) (by simp) (by simp) h)
  case sx32 ra rb rc =>
    exact wrap (st (.inl ⟨ra, rb, rc, .inr (.inr (.inr (.inr rfl)))⟩) (Ordinary.storeWord s _ _) (by simp) (by simp) (by simp) h)
  case sd8 ra rb imm =>
    simp only [exec, execSd8] at h; exact wrap (st (.inr ⟨ra, rb, imm, .inl rfl⟩) (Ordinary.storeByte s _ _) (by simp) (by simp) (by simp) h)
  case sd16 ra rb imm =>
    exact wrap (st (.inr ⟨ra, rb, imm, .inr (.inl rfl)⟩) (Ordinary.storeHalf s _ _) (by simp) (by simp) (by simp) h)
  case sd32 ra rb imm =>
    exact wrap (st (.inr ⟨ra, rb, imm, .inr (.inr (.inl rfl))⟩) (Ordinary.storeWord s _ _) (by simp) (by simp) (by simp) h)
  case swap ra rb i10 =>
    rcases withAccess_next h with h | h
    · rcases withAccess_next h with h | h
      · injection h with h; subst h
        exact wrap (.inr ⟨(Ordinary.storeWord s _ _).writeAndAdvance, Channels.of_eq (by simp) (by simp), .inl (by simp),
          .inl (.inr ⟨ra, rb, i10, .inr (.inr (.inr rfl))⟩)⟩)
      · exact .inl (df (by decide) h)
    · exact .inl (df (by decide) h)
  case trap ra s10 => exact .inl ⟨.trap, _, _, by decide, .inr ⟨ra, _, rfl⟩, h⟩
  case sbrk =>
    simp only [exec, execSbrk] at h
    split at h
    · exact .inl (df (by decide) h)
    · exact .inl (df (by decide) h)
  case rte =>
    rcases supervisorOnly_next h with ⟨hm, h⟩ | ⟨_, h⟩
    · injection h with h; exact .inr (.inl ⟨rfl, hm, h.symm⟩)
    · exact .inl (df (by decide) h)
  case sleep =>
    rcases supervisorOnly_next h with ⟨hm, h⟩ | ⟨_, h⟩
    · split at h
      · injection h with h; subst h
        exact wrap (.inr ⟨(Ordinary.refl s).jump, Channels.of_eq rfl rfl, .inl rfl, .inr ⟨rfl, rfl⟩⟩)
      · split at h
        · next hie => injection h with h; exact .inr (.inr (.inr (.inl ⟨rfl, hm, hie, h.symm⟩)))
        · cases h
    · exact .inl (df (by decide) h)
  case rcr ra cr =>
    rcases supervisorOnly_next h with ⟨hm, h⟩ | ⟨_, h⟩
    · split at h
      · exact wrap (.inr (wa h))
      · cases h
    · exact .inl (df (by decide) h)
  case wcr ra cr =>
    rcases supervisorOnly_next h with ⟨hm, h⟩ | ⟨_, h⟩
    · split at h
      · next u hu => injection h with h; exact .inr (.inr (.inl ⟨ra, cr, u, rfl, hm, hu, h.symm⟩))
      · cases h
    · exact .inl (df (by decide) h)
  case cld ra mid number =>
    simp only [exec, execCld] at h
    obtain ⟨_, hm, _, h⟩ := withModuleRegister_next h
    injection h with h; subst h
    refine wrap (.inr ⟨Ordinary.writeAndAdvance ?_, ⟨.inr hm, .inr (.inl hm)⟩, .inl (by simp), .inr (by simp)⟩)
    exact ⟨⟨rfl, rfl, rfl, rfl, rfl⟩, rfl, rfl, rfl, id⟩
  case cst ra mid number =>
    simp only [exec, execCst] at h
    obtain ⟨_, hm, _, h⟩ := withModuleRegister_next h
    injection h with h; subst h
    exact wrap (.inr ⟨⟨⟨rfl, rfl, rfl, rfl, rfl⟩, rfl, rfl, rfl, id⟩, ⟨.inr hm, .inr (.inl hm)⟩, .inl rfl, .inr ⟨rfl, rfl⟩⟩)
  case itlb cmd rb =>
    rcases sendTlbCommand_next h with ⟨hm, rfl⟩ | ⟨_, h⟩
    · exact wrap (.inr ⟨⟨⟨rfl, rfl, rfl, rfl, rfl⟩, rfl, rfl, rfl, id⟩, ⟨.inr hm, .inr (.inl hm)⟩, .inl rfl, .inr ⟨rfl, rfl⟩⟩)
    · exact .inl (df (by decide) h)
  case dtlb cmd rb =>
    rcases sendTlbCommand_next h with ⟨hm, rfl⟩ | ⟨_, h⟩
    · exact wrap (.inr ⟨⟨⟨rfl, rfl, rfl, rfl, rfl⟩, rfl, rfl, rfl, id⟩, ⟨.inr hm, .inr (.inl hm)⟩, .inl rfl, .inr ⟨rfl, rfl⟩⟩)
    · exact .inl (df (by decide) h)
  case icache cmd rb s10 =>
    rcases sendCacheCommand_next h with ⟨p, hf, hp, rfl⟩ | ⟨_, h⟩
    · refine wrap (.inr ⟨⟨⟨rfl, rfl, rfl, rfl, rfl⟩, rfl, rfl, rfl, id⟩, ⟨.inl rfl, .inr ?_⟩, .inl rfl, .inr ⟨rfl, rfl⟩⟩)
      rcases hp with hp | rfl
      · exact .inl hp
      · exact .inr ⟨_, _, _, .inl rfl, hf, rfl⟩
    · exact .inl (df (by decide) h)
  case dcache cmd rb s10 =>
    rcases sendCacheCommand_next h with ⟨p, hf, hp, rfl⟩ | ⟨_, h⟩
    · refine wrap (.inr ⟨⟨⟨rfl, rfl, rfl, rfl, rfl⟩, rfl, rfl, rfl, id⟩, ⟨.inl rfl, .inr ?_⟩, .inl rfl, .inr ⟨rfl, rfl⟩⟩)
      rcases hp with hp | rfl
      · exact .inl hp
      · exact .inr ⟨_, _, _, .inr rfl, hf, rfl⟩
    · exact .inl (df (by decide) h)
  all_goals exact wrap (.inr (wa h))

end Sys2Proof.Machine
end

