-- ==== Sys2Proof/Laws/UserMode.lean ====
section
/-! SUPPORT. User mode cannot see the control registers (60_exceptions.md R360). `withControl s c` differs from `s` in them
alone; `Unseen` says that an outcome in user mode shows nothing of the change. One lemma for each shared operation, one for
every instruction, one for the fetch. -/

namespace Sys2Proof.Machine

open Sys2Proof

/-! ## The accessors and the updates under `withControl` -/

variable (s c : State)

@[simp] theorem withControl_pc : (withControl s c).pc = s.pc := rfl
@[simp] theorem withControl_sleeping : (withControl s c).sleeping = s.sleeping := rfl
@[simp] theorem withControl_intRequests : (withControl s c).intRequests = s.intRequests := rfl
@[simp] theorem withControl_mem : (withControl s c).mem = s.mem := rfl
@[simp] theorem withControl_stored : (withControl s c).stored = s.stored := rfl
@[simp] theorem withControl_moduleLog : (withControl s c).moduleLog = s.moduleLog := rfl
@[simp] theorem withControl_commandLog : (withControl s c).commandLog = s.commandLog := rfl
@[simp] theorem withControl_cfg : (withControl s c).cfg = s.cfg := rfl
@[simp] theorem withControl_reg (r : Reg) : (withControl s c).reg r = s.reg r := rfl
@[simp] theorem withControl_mode : (withControl s c).mode = c.mode := rfl
@[simp] theorem withControl_ie : (withControl s c).ie = c.ie := rfl
@[simp] theorem withControl_byteAt (a : Word) : (withControl s c).byteAt a = s.byteAt a := rfl
@[simp] theorem withControl_halfAt (a : Word) : (withControl s c).halfAt a = s.halfAt a := rfl
@[simp] theorem withControl_wordAt (a : Word) : (withControl s c).wordAt a = s.wordAt a := rfl
@[simp] theorem withControl_bytesAt (a : Word) : (withControl s c).bytesAt a = s.bytesAt a := rfl
@[simp] theorem withControl_modified (a : Word) : (withControl s c).modified a = s.modified a := rfl

theorem withControl_setReg (r : Reg) (v : Word) : (withControl s c).setReg r v = withControl (s.setReg r v) c := by
  unfold State.setReg; split <;> rfl
theorem withControl_jump (t : Word) : (withControl s c).jump t = withControl (s.jump t) c := rfl
theorem withControl_advance : (withControl s c).advance = withControl s.advance c := rfl
theorem withControl_sampled : (withControl s c).sampled = withControl s.sampled c := rfl
theorem withControl_storeByte (a : Word) (b : Byte) :
    (withControl s c).storeByte a b = withControl (s.storeByte a b) c := rfl
theorem withControl_storeHalf (a : Word) (v : Half) :
    (withControl s c).storeHalf a v = withControl (s.storeHalf a v) c := rfl
theorem withControl_storeWord (a v : Word) : (withControl s c).storeWord a v = withControl (s.storeWord a v) c := rfl
theorem withControl_send (u : CommandUnit) (cmd : BitVec 4) (a : Word) :
    (withControl s c).send u cmd a = withControl (s.send u cmd a) c := rfl

variable {s c}

/-! ## What an outcome in user mode shows -/

/-- If `r` is a next state in user mode, `r'` is that state but for the control registers, which are those of `c`. -/
def Unseen (c : State) (r r' : Result) : Prop := ∀ t : State, r = .next t → t.mode = .user → r' = .next (withControl t c)

theorem Unseen.next (t : State) : Unseen c (.next t) (.next (withControl t c)) := by
  intro u h _; injection h with h; rw [h]

theorem Unseen.refused (f : Refusal) (r' : Result) : Unseen c (.refused f) r' := by
  intro u h; cases h

/-- An exception entry leaves user mode (R346), so nothing is asked of the other run. -/
theorem Unseen.enter (e : Exc) (ret : Word) (u : State) (r' : Result) : Unseen c (enter e ret u) r' := by
  intro t h hm
  rw [enter_next h, State.mode_jump, (State.saveContext_bits u e ret).2.1] at hm
  cases hm

theorem Unseen.writeAndAdvance (r : Reg) (v : Word) :
    Unseen c (writeAndAdvance s r v) (writeAndAdvance (withControl s c) r v) := by
  unfold Machine.writeAndAdvance
  rw [withControl_setReg, withControl_advance]
  exact Unseen.next _

theorem Unseen.branchIf (b : Bool) (s10 : BitVec 10) : Unseen c (branchIf s b s10) (branchIf (withControl s c) b s10) :=
  Unseen.next _

theorem Unseen.supervisorOnly (h : s.mode = .user) (go r' : Result) : Unseen c (supervisorOnly s go) r' := by
  rw [supervisorOnly_user h]
  exact Unseen.enter _ _ _ _

theorem Unseen.withAccess (h : c.mode = s.mode) (k : AccessKind) (a : Word) (z : AccessSize) {go go' : Result}
    (hg : Unseen c go go') : Unseen c (withAccess s k a z go) (withAccess (withControl s c) k a z go') := by
  unfold Machine.withAccess
  simp only [withControl_cfg, withControl_mode, withControl_pc, h]
  split
  · split
    · exact Unseen.enter _ _ _ _
    · exact hg
  · split
    · exact Unseen.refused _ _
    · exact Unseen.enter _ _ _ _

theorem Unseen.loadInto (h : c.mode = s.mode) (r : Reg) (a : Word) (z : AccessSize) (v : Word) :
    Unseen c (loadInto s r a z v) (loadInto (withControl s c) r a z v) :=
  Unseen.withAccess h .load a z (Unseen.writeAndAdvance r v)

theorem Unseen.storeTo (h : c.mode = s.mode) (a : Word) (z : AccessSize) (t : State) :
    Unseen c (storeTo s a z t) (storeTo (withControl s c) a z (withControl t c)) :=
  Unseen.withAccess h .store a z (Unseen.next _)

theorem Unseen.withModuleRegister (h : s.mode = .user) (id : BitVec 3) (number : BitVec 10) (go : BitVec 9 → Result)
    (r' : Result) : Unseen c (withModuleRegister s id number go) r' := by
  intro t ht
  rw [(withModuleRegister_next ht).2.1] at h
  cases h

theorem Unseen.sendCacheCommand (h : s.mode = .user) (u : CommandUnit) (cmd : BitVec 4) (a : Word) :
    Unseen c (sendCacheCommand s u cmd a) (sendCacheCommand (withControl s c) u cmd a) := by
  unfold Machine.sendCacheCommand
  rw [withControl_cfg]
  split
  · exact Unseen.refused _ _
  · split
    · exact Unseen.supervisorOnly h _ _
    · exact Unseen.next _

/-! ## Every instruction, and the fetch -/

/-- An instruction run in user mode reads no control register (R360). -/
theorem exec_unseen (i : Instr) (hs : s.mode = .user) (hc : c.mode = .user) :
    Unseen c (exec i s) (exec i (withControl s c)) := by
  have hm : c.mode = s.mode := hc.trans hs.symm
  have jp : ∀ (r : Reg) (v a : Word), Unseen c (.next ((s.setReg r v).jump a))
      (.next (((withControl s c).setReg r v).jump a)) := by
    intro r v a
    rw [withControl_setReg, withControl_jump]
    exact Unseen.next _
  cases i
  case j => exact jp _ _ _
  case ja => exact jp _ _ _
  case mulu =>
    simp only [exec, execMulu, withControl_reg, withControl_setReg]
    split
    · exact Unseen.writeAndAdvance _ _
    · exact Unseen.refused _ _
  case mul => exact Unseen.refused _ _
  case swap =>
    simp only [exec, execSwap, withControl_reg, withControl_storeWord, withControl_wordAt]
    exact Unseen.withAccess hm _ _ _ (Unseen.withAccess hm _ _ _ (Unseen.writeAndAdvance _ _))
  case trap => exact Unseen.enter _ _ _ _
  case sbrk =>
    simp only [exec, execSbrk]
    split <;> exact Unseen.enter _ _ _ _
  case rte => exact Unseen.supervisorOnly hs _ _
  case sleep => exact Unseen.supervisorOnly hs _ _
  case rcr => exact Unseen.supervisorOnly hs _ _
  case wcr => exact Unseen.supervisorOnly hs _ _
  case cld =>
    simp only [exec, execCld]
    exact Unseen.withModuleRegister hs _ _ _ _
  case cst =>
    simp only [exec, execCst]
    exact Unseen.withModuleRegister hs _ _ _ _
  case itlb => exact Unseen.supervisorOnly hs _ _
  case dtlb => exact Unseen.supervisorOnly hs _ _
  case icache => exact Unseen.sendCacheCommand hs _ _ _
  case dcache => exact Unseen.sendCacheCommand hs _ _ _
  case lr8 => simp only [exec, execLr8]; exact Unseen.loadInto hm _ _ _ _
  case lr8u => simp only [exec, execLr8u]; exact Unseen.loadInto hm _ _ _ _
  case ld8 => simp only [exec, execLd8]; exact Unseen.loadInto hm _ _ _ _
  case ld8u => simp only [exec, execLd8u]; exact Unseen.loadInto hm _ _ _ _
  case sr8 => simp only [exec, execSr8]; exact Unseen.storeTo hm _ _ _
  case sd8 => simp only [exec, execSd8]; exact Unseen.storeTo hm _ _ _
  all_goals first
    | exact Unseen.writeAndAdvance _ _
    | exact Unseen.branchIf _ _
    | exact Unseen.loadInto hm _ _ _ _
    | exact Unseen.storeTo hm _ _ _

/-- The fetch in user mode reads the mode and no other bit of the control registers. -/
theorem fetchInstr_unseen {i : Instr} (hm : c.mode = s.mode) (h : fetchInstr s = .instr i) :
    fetchInstr (withControl s c) = .instr i := by
  unfold fetchInstr at h ⊢
  simp only [withControl_pc, withControl_cfg, withControl_mode, withControl_modified, withControl_bytesAt, hm]
  split at h
  · next h1 =>
    split at h
    · cases h
    · next h2 =>
      split at h
      · cases h
      · next h3 =>
        split at h
        · simp only [h1, h2, h3]; exact h
        · cases h
  · split at h <;> cases h

end Sys2Proof.Machine
end

