-- ==== Sys2Proof/Machine/Abi.lean ====
section
/-! DEFINITION. The tables of the application binary interface (49_abi_assembler.md, R320 to R327), conventions of
software: the hardware treats R1 to R31 alike and no step reads these. -/

namespace Sys2Proof.Machine

open Sys2Proof

/-- Who preserves a register across a function call (R320). -/
inductive SaveClass where
  | zero
  | callerSave
  | calleeSave
  | assembler
  deriving DecidableEq, Repr

/-- Table 4-1 (R320). R19 is "Reserved for assembler handling long branch". -/
def saveClass (r : Reg) : SaveClass :=
  let n := r.toNat
  if n = 0 then .zero
  else if n = 1 then .calleeSave
  else if n ≤ 7 then .callerSave
  else if n ≤ 17 then .calleeSave
  else if n = 18 then .callerSave
  else if n = 19 then .assembler
  else if n ≤ 21 then .callerSave
  else if n ≤ 27 then .calleeSave
  else .callerSave

/-- The stack pointer, R1 (R320, R321). -/
def abiSP : Reg := 1#5
/-- The frame pointer, R16 (R320). -/
def abiFP : Reg := 16#5
/-- The PIC register, R17 (R320). -/
def abiPIC : Reg := 17#5
/-- The linkage register, R18: where a call puts the return address (R320, R323). -/
def abiLink : Reg := 18#5
/-- The static chain register and the number of a Linux system call, R20 (R320). -/
def abiStaticChain : Reg := 20#5
/-- The registers of the first six words of arguments, R2 to R7 (R327). -/
def abiArguments : List Reg := [2#5, 3#5, 4#5, 5#5, 6#5, 7#5]

/-- "the stack pointer must be aligned to a 4 byte boundary on entry to a function" (R321). -/
def abiStackAligned (sp : Word) : Bool := sp &&& 3#32 == 0#32

/-- The areas of a frame, from high addresses to low (R322). -/
inductive FrameArea where
  | parameterRegisterSave
  | registerSave
  | localVariable
  | dynamicVariable
  | argument
  deriving DecidableEq, Repr

/-- The scalar types of ANSI C (R324). -/
inductive CType where
  | char
  | short
  | int
  | enum
  | long
  | longLong
  | float
  | double
  | longDouble
  | pointer
  deriving DecidableEq, Repr

/-- The size in bytes (R324, Table 4-2). -/
def CType.size : CType → Nat
  | .char => 1
  | .short => 2
  | .int | .enum | .long | .float | .pointer => 4
  | .longLong | .double | .longDouble => 8

/-- The alignment in bytes, which Table 4-2 gives as the size (R324). -/
def CType.alignment (t : CType) : Nat := t.size

/-- Where a value of the type is returned, the high part first where there are two (R326, Table 4-3). -/
def returnRegisters (e : Endian) (t : CType) : List Reg :=
  if t.size ≤ 4 then [2#5]
  else match e with
    | .big => [2#5, 3#5]
    | .little => [3#5, 2#5]

/-- Bit-fields are allocated from the least significant bit on little-endian implementations, from the most significant
on big-endian ones (R325). -/
def bitFieldsFromLeastSignificant : Endian → Bool
  | .little => true
  | .big => false

end Sys2Proof.Machine
end

