-- ==== Sys2Proof/Tests/Slice0.lean ====
section
/-! SUPPORT. The model's own tests. Every expected word and value is copied from spec/ (95_test_vectors.md, the examples
of the instruction files) or written out from an encoding box of 30_encoding.md; none is the model's own answer. The
`witness` theorems show, for each statement with hypotheses, a concrete state and operands that meet them together. -/

namespace Sys2Proof.Tests

open Sys2Proof Sys2Proof.Machine

/-! ## Helpers -/

/-- A state with the registers of a list written. -/
def writeAll (s : State) : List (Reg × Word) → State
  | [] => s
  | p :: rest => writeAll (s.setReg p.1 p.2) rest

/-- Memory with the words of a list, each written as its four bytes from the high one. -/
def placeAll (m : Memory) : List (Word × Word) → Memory
  | [] => m
  | p :: rest => placeAll (m.placeWord .big p.1 p.2) rest

/-- The reset state at pc = 1000 with some registers and memory words. -/
def fresh (regs : List (Reg × Word)) (words : List (Word × Word)) : State :=
  { writeAll State.reset regs with pc := 0x1000#32, mem := placeAll [] words }

/-- The same with the other byte order. -/
def little (s : State) : State := { s with cfg := { s.cfg with endian := .little } }

/-- The vector table of 95_test_vectors.md part 2.8. -/
def vectors : List (Word × Word) :=
  [(0x80000004#32, 0x80000100#32), (0x80000008#32, 0x80000200#32), (0x80000010#32, 0x80000400#32),
    (0x80000014#32, 0x80000500#32), (0x80000018#32, 0x80000600#32), (0x84000008#32, 0x84000200#32),
    (0x84000014#32, 0x84000500#32)]

/-- A state with the vector table, a value of SR and some registers. -/
def sys (sr : Word) (regs : List (Reg × Word)) : State := { fresh regs vectors with sr := sr }

/-- One step on an instruction word. -/
def run (s : State) (w : Word) : Result := step (s.withFetchWord 32 w.toNat)

def isNext : Result → Bool
  | .next _ => true
  | .fault _ => false
  | .refused _ => false

def after (d : State) : Result → State
  | .next t => t
  | .fault _ => d
  | .refused _ => d

theorem next_of_isNext (r : Result) (d : State) (h : isNext r = true) : r = .next (after d r) := by
  cases r with
  | next t => rfl
  | fault f => exact absurd h (by simp [isNext])
  | refused f => exact absurd h (by simp [isNext])

/-- A register after one step. -/
def regAfter (s : State) (w : Word) (r : Reg) : Option Word :=
  match run s w with
  | .next t => some (t.reg r)
  | .fault _ => none
  | .refused _ => none

/-- The pc after one step. -/
def pcAfter (s : State) (w : Word) : Option Word :=
  match run s w with
  | .next t => some t.pc
  | .fault _ => none
  | .refused _ => none

/-- The eight bytes from 2000 after one step. -/
def bytesAfter (s : State) (w : Word) : List Nat :=
  match run s w with
  | .next t => [0, 1, 2, 3, 4, 5, 6, 7].map (fun k => (t.mem.byteAt (0x2000 + k)).toNat)
  | .fault _ => []
  | .refused _ => []

/-- SR, ESR, EPC, DSR, DPC and pc after one step. -/
def controlAfter (s : State) (w : Word) : List Nat :=
  match run s w with
  | .next t => [t.sr.toNat, t.esr.toNat, t.epc.toNat, t.dsr.toNat, t.dpc.toNat, t.pc.toNat]
  | .fault _ => []
  | .refused _ => []

/-- The refusal of one step. -/
def refusalOf (s : State) (w : Word) : Option Refusal :=
  match run s w with
  | .next _ => none
  | .fault _ => none
  | .refused r => some r

/-! ## Well-formedness: an ill-formed term for each check -/

theorem test_mulu_same_destination_refused : WellFormed (.mulu 3#5 3#5 1#5 2#5) = false := by decide
theorem test_rcr_index_three_refused : WellFormed (.rcr 1#5 3#5) = false := by decide
theorem test_wcr_index_thirty_one_refused : WellFormed (.wcr 1#5 31#5) = false := by decide
theorem test_cld_number_512_refused : WellFormed (.cld 1#5 0#3 512#10) = false := by decide
theorem test_cst_number_512_refused : WellFormed (.cst 1#5 0#3 512#10) = false := by decide
theorem test_boundaries_accepted :
    WellFormed (.mulu 0#5 0#5 1#5 2#5) = true ∧ WellFormed (.cld 1#5 0#3 511#10) = true ∧
      WellFormed (.wcr 1#5 6#5) = true := by decide

/-! ## Decoding: every constructor on a word of the spec -/

theorem test_decode_lhi_jumps :
    decode 0x24323456#32 = .ok (.lhi 1#5 0x123456#21) ∧ decode 0x143fedcc#32 = .ok (.j 1#5 0x1fedcc#21) ∧
      decode 0x000108f0#32 = .ok (.ja 0#5 1#5 0xf0#10) := by decide

theorem test_decode_branches_registers :
    decode 0x18411840#32 = .ok (.beq 1#5 2#5 0x40#10) ∧ decode 0x18410810#32 = .ok (.bne 1#5 2#5 0x10#10) ∧
      decode 0x18411080#32 = .ok (.blt 1#5 2#5 0x80#10) ∧ decode 0x18410010#32 = .ok (.bge 1#5 2#5 0x10#10) ∧
      decode 0x18413080#32 = .ok (.bltu 1#5 2#5 0x80#10) ∧ decode 0x18412010#32 = .ok (.bgeu 1#5 2#5 0x10#10) := by
  decide

theorem test_decode_branches_immediate :
    decode 0x10611840#32 = .ok (.beqi 1#5 3#5 0x40#10) ∧ decode 0x12010804#32 = .ok (.bnei 1#5 0x10#5 4#10) ∧
      decode 0x13e11080#32 = .ok (.blti 1#5 0x1f#5 0x80#10) ∧ decode 0x11e10004#32 = .ok (.bgei 1#5 0xf#5 4#10) ∧
      decode 0x13e13804#32 = .ok (.bequi 1#5 31#5 4#10) ∧ decode 0x12012804#32 = .ok (.bneui 1#5 16#5 4#10) ∧
      decode 0x13e13080#32 = .ok (.bltui 1#5 31#5 0x80#10) ∧ decode 0x12012004#32 = .ok (.bgeui 1#5 16#5 4#10) := by
  decide

theorem test_decode_arithmetic :
    decode 0x08410003#32 = .ok (.add 3#5 1#5 2#5) ∧ decode 0x00610334#32 = .ok (.addi 3#5 1#5 0x334#10) ∧
      decode 0x08418003#32 = .ok (.sub 3#5 1#5 2#5) ∧ decode 0x08414464#32 = .ok (.mulu 3#5 4#5 1#5 2#5) ∧
      decode 0x0841c403#32 = .ok .mul := by decide

theorem test_decode_comparison :
    decode 0x08415803#32 = .ok (.seq 3#5 1#5 2#5) ∧ decode 0x08414803#32 = .ok (.sne 3#5 1#5 2#5) ∧
      decode 0x08035001#32 = .ok (.slt 1#5 3#5 0#5) ∧ decode 0x08414003#32 = .ok (.sge 3#5 1#5 2#5) ∧
      decode 0x08e67005#32 = .ok (.sltu 5#5 6#5 7#5) ∧ decode 0x08416003#32 = .ok (.sgeu 3#5 1#5 2#5) := by decide

theorem test_decode_bitwise :
    decode 0x08410403#32 = .ok (.and 3#5 1#5 2#5) ∧ decode 0x08410803#32 = .ok (.or 3#5 1#5 2#5) ∧
      decode 0x08410c03#32 = .ok (.xor 3#5 1#5 2#5) ∧ decode 0x08418403#32 = .ok (.andn 3#5 1#5 2#5) ∧
      decode 0x302200f3#32 = .ok (.andi 1#5 2#5 0xf3#16) ∧ decode 0x5060f234#32 = .ok (.ori 3#5 0#5 0xf234#16) ∧
      decode 0x6022ff6a#32 = .ok (.xori 1#5 2#5 0xff6a#16) := by decide

theorem test_decode_shifts :
    decode 0x08411003#32 = .ok (.sll 3#5 1#5 2#5) ∧ decode 0x08412003#32 = .ok (.slr 3#5 1#5 2#5) ∧
      decode 0x08413003#32 = .ok (.sar 3#5 1#5 2#5) ∧ decode 0x00611005#32 = .ok (.slli 3#5 1#5 5#5) ∧
      decode 0x00612008#32 = .ok (.slri 3#5 1#5 8#5) ∧ decode 0x00613007#32 = .ok (.sari 3#5 1#5 7#5) := by decide

theorem test_decode_loads :
    decode 0x28411803#32 = .ok (.lr8 3#5 1#5 2#5) ∧ decode 0x28413803#32 = .ok (.lr8u 3#5 1#5 2#5) ∧
      decode 0x28410803#32 = .ok (.lr16 3#5 1#5 2#5) ∧ decode 0x28412803#32 = .ok (.lr16u 3#5 1#5 2#5) ∧
      decode 0x28410003#32 = .ok (.lr32 3#5 1#5 2#5) ∧ decode 0x28414803#32 = .ok (.lx16 3#5 1#5 2#5) ∧
      decode 0x28416803#32 = .ok (.lx16u 3#5 1#5 2#5) ∧ decode 0x28414003#32 = .ok (.lx32 3#5 1#5 2#5) ∧
      decode 0x20611bf0#32 = .ok (.ld8 3#5 1#5 0x3f0#10) ∧ decode 0x20613bf0#32 = .ok (.ld8u 3#5 1#5 0x3f0#10) ∧
      decode 0x20610808#32 = .ok (.ld16 3#5 1#5 8#10) ∧ decode 0x20612bf0#32 = .ok (.ld16u 3#5 1#5 0x3f0#10) ∧
      decode 0x20610004#32 = .ok (.ld32 3#5 1#5 4#10) := by decide

theorem test_decode_stores :
    decode 0x28411c03#32 = .ok (.sr8 3#5 1#5 2#5) ∧ decode 0x28410c03#32 = .ok (.sr16 3#5 1#5 2#5) ∧
      decode 0x28410403#32 = .ok (.sr32 3#5 1#5 2#5) ∧ decode 0x28414c03#32 = .ok (.sx16 3#5 1#5 2#5) ∧
      decode 0x28414403#32 = .ok (.sx32 3#5 1#5 2#5) ∧ decode 0x20611ff0#32 = .ok (.sd8 3#5 1#5 0x3f0#10) ∧
      decode 0x20610ff0#32 = .ok (.sd16 3#5 1#5 0x3f0#10) ∧ decode 0x206107f8#32 = .ok (.sd32 3#5 1#5 0x3f8#10) := by
  decide

theorem test_decode_misc :
    decode 0x08222403#32 = .ok (.mvz 3#5 2#5 1#5) ∧ decode 0x08223403#32 = .ok (.mvnz 3#5 2#5 1#5) ∧
      decode 0x00615000#32 = .ok (.csb 3#5 1#5) ∧ decode 0x00616000#32 = .ok (.brev 3#5 1#5) ∧
      decode 0x20613c01#32 = .ok (.swap 3#5 1#5 1#10) := by decide

theorem test_decode_system :
    decode 0x64800005#32 = .ok (.trap 4#5 5#10) ∧ decode 0x64004c00#32 = .ok .sbrk ∧
      decode 0x64000400#32 = .ok .rte ∧ decode 0x64000c00#32 = .ok .sleep ∧
      decode 0x64401001#32 = .ok (.rcr 2#5 1#5) ∧ decode 0x64401402#32 = .ok (.wcr 2#5 2#5) ∧
      decode 0x64202000#32 = .ok (.cld 1#5 0#3 0#10) ∧ decode 0x642325ff#32 = .ok (.cst 1#5 3#3 0x1ff#10) ∧
      decode 0x00223400#32 = .ok (.itlb 1#4 2#5) ∧ decode 0x00222400#32 = .ok (.dtlb 1#4 2#5) ∧
      decode 0x00221400#32 = .ok (.icache 1#4 2#5 0#10) ∧ decode 0x00220400#32 = .ok (.dcache 1#4 2#5 0#10) := by
  decide

/-- One instruction of each layout of R109, its cells written out bit by bit: OP1, bits 25:21, bits 20:16, and so on. -/
theorem test_decode_layouts :
    decode 0b000010_00010_00001_100000_00000_00011#32 = .ok (.sub 3#5 1#5 2#5) ∧
      decode 0b000010_00010_00001_010001_00100_00011#32 = .ok (.mulu 4#5 3#5 1#5 2#5) ∧
      decode 0b000000_00011_00001_001100_00000_11111#32 = .ok (.sari 3#5 1#5 31#5) ∧
      decode 0b000100_10000_00001_001110_0000000100#32 = .ok (.bequi 1#5 16#5 4#10) ∧
      decode 0b011000_00001_00010_1111111101101010#32 = .ok (.xori 1#5 2#5 0xff6a#16) ∧
      decode 0b011001_00001_00_011_001001_0111111111#32 = .ok (.cst 1#5 3#3 511#10) ∧
      decode 0b000000_0_1010_00010_001101_0000000000#32 = .ok (.itlb 10#4 2#5) ∧
      decode 0b000000_0_1010_00010_000001_1000000000#32 = .ok (.dcache 10#4 2#5 512#10) := by decide

/-- Reserved encodings (95_test_vectors.md part 2.8) and fields that must be zero (R111). -/
theorem test_decode_rejects :
    decode 0xffffffff#32 = .error .unassigned ∧ decode 0x04000000#32 = .error .unassigned ∧
      decode 0x00000c00#32 = .error .unassigned ∧ decode 0x08008c00#32 = .error .unassigned ∧
      decode 0x18000400#32 = .error .unassigned ∧ decode 0x20001000#32 = .error .unassigned ∧
      decode 0x28005800#32 = .error .unassigned ∧ decode 0x64001800#32 = .error .unassigned ∧
      decode 0x00611025#32 = .error .mustBeZero ∧ decode 0x64282000#32 = .error .mustBeZero ∧
      decode 0x02223400#32 = .error .mustBeZeroPrivileged := by decide

/-- The interface's decoder: the opcode-table bits of LHI, and an encoding with no instruction. -/
theorem test_decodeTableWord :
    decodeTableWord 32 0x24323456 = some (.lhi 1#5 0x123456#21) ∧ decodeTableWord 32 0xfc000000 = none := by decide

/-! ## One step of each instruction (95_test_vectors.md parts 1 and 2) -/

theorem test_lhi_jumps :
    regAfter (fresh [(1#5, 5#32)] []) 0x243fffff#32 1#5 = some 0xfffff800#32 ∧
      regAfter (fresh [] []) 0x241fffff#32 0#5 = some 0#32 ∧
      pcAfter { fresh [] [] with pc := 0x8a90#32 } 0x143fedcc#32 = some 0x41c4#32 ∧
      regAfter { fresh [] [] with pc := 0x8a90#32 } 0x143fedcc#32 1#5 = some 0x8a94#32 ∧
      pcAfter (fresh [(1#5, 0x56ac8#32)] []) 0x000108f0#32 = some 0x56bc8#32 ∧
      pcAfter (fresh [(2#5, 0x2000#32)] []) 0x00420800#32 = some 0x2000#32 ∧
      regAfter (fresh [(2#5, 0x2000#32)] []) 0x00420800#32 2#5 = some 0x1004#32 := by decide

def branchRegs : List (Reg × Word) := [(1#5, 0x80000000#32), (2#5, 1#32)]

theorem test_branches_registers :
    pcAfter (fresh branchRegs []) 0x18411810#32 = some 0x1004#32 ∧
      pcAfter (fresh branchRegs []) 0x18410810#32 = some 0x1044#32 ∧
      pcAfter (fresh branchRegs []) 0x18411010#32 = some 0x1044#32 ∧
      pcAfter (fresh branchRegs []) 0x18410010#32 = some 0x1004#32 ∧
      pcAfter (fresh branchRegs []) 0x18413010#32 = some 0x1004#32 ∧
      pcAfter (fresh branchRegs []) 0x18412010#32 = some 0x1044#32 ∧
      pcAfter (fresh [] []) 0x18001a00#32 = some 0x804#32 := by decide

theorem test_branches_immediate :
    pcAfter (fresh [(1#5, 0xfffffff0#32)] []) 0x12011804#32 = some 0x1014#32 ∧
      pcAfter (fresh [(1#5, 0xffffffef#32)] []) 0x12010804#32 = some 0x1014#32 ∧
      pcAfter (fresh [(1#5, 0xffffffef#32)] []) 0x12011004#32 = some 0x1014#32 ∧
      pcAfter (fresh [(1#5, 0xffffffef#32)] []) 0x12010004#32 = some 0x1004#32 ∧
      pcAfter (fresh [(1#5, 0xfffffff0#32)] []) 0x12013804#32 = some 0x1004#32 ∧
      pcAfter (fresh [(1#5, 0xfffffff0#32)] []) 0x12012804#32 = some 0x1014#32 ∧
      pcAfter (fresh [(1#5, 0x1e#32)] []) 0x13e13004#32 = some 0x1014#32 ∧
      pcAfter (fresh [(1#5, 0x1e#32)] []) 0x13e12004#32 = some 0x1004#32 := by decide

def operands1 : List (Reg × Word) := [(1#5, 0xa213#32), (2#5, 0xff451bc0#32)]

theorem test_arithmetic :
    regAfter (fresh operands1 []) 0x08410003#32 3#5 = some 0xff45bdd3#32 ∧
      regAfter (fresh operands1 []) 0x00610334#32 3#5 = some 0xa147#32 ∧
      regAfter (fresh operands1 []) 0x08418003#32 3#5 = some 0x00bb8653#32 ∧
      regAfter (fresh operands1 []) 0x08414464#32 3#5 = some 0xa19c#32 ∧
      regAfter (fresh operands1 []) 0x08414464#32 4#5 = some 0xadb08f40#32 ∧
      refusalOf (fresh operands1 []) 0x08414463#32 = some .muluSameDestination ∧
      refusalOf (fresh operands1 []) 0x0841c403#32 = some .mulNoDescription := by decide

theorem test_mulu_destinations_are_sources :
    regAfter (fresh [(1#5, 0x12345678#32), (2#5, 0x9abcdef0#32)] []) 0x08414422#32 1#5 = some 0x0b00ea4e#32 ∧
      regAfter (fresh [(1#5, 0x12345678#32), (2#5, 0x9abcdef0#32)] []) 0x08414422#32 2#5 = some 0x242d2080#32 := by
  decide

def compareRegs : List (Reg × Word) := [(1#5, 0x80000000#32), (2#5, 0x7fffffff#32), (3#5, 0xdeadbeef#32)]

theorem test_comparison :
    regAfter (fresh compareRegs []) 0x08415803#32 3#5 = some 0#32 ∧
      regAfter (fresh compareRegs []) 0x08414803#32 3#5 = some 1#32 ∧
      regAfter (fresh compareRegs []) 0x08415003#32 3#5 = some 1#32 ∧
      regAfter (fresh compareRegs []) 0x08414003#32 3#5 = some 0#32 ∧
      regAfter (fresh compareRegs []) 0x08417003#32 3#5 = some 0#32 ∧
      regAfter (fresh compareRegs []) 0x08416003#32 3#5 = some 1#32 := by decide

def operands2 : List (Reg × Word) := [(1#5, 0x12345678#32), (2#5, 0xff451bc0#32)]

theorem test_bitwise :
    regAfter (fresh operands2 []) 0x08410403#32 3#5 = some 0x12041240#32 ∧
      regAfter (fresh operands2 []) 0x08410803#32 3#5 = some 0xff755ff8#32 ∧
      regAfter (fresh operands2 []) 0x08410c03#32 3#5 = some 0xed714db8#32 ∧
      regAfter (fresh operands2 []) 0x08418403#32 3#5 = some 0x00304438#32 ∧
      regAfter (fresh operands2 []) 0x302200f3#32 1#5 = some 0xc0#32 ∧
      regAfter (fresh operands2 []) 0x5060f234#32 3#5 = some 0xfffff234#32 ∧
      regAfter (fresh operands2 []) 0x6022ff6a#32 1#5 = some 0x00bae4aa#32 := by decide

def shiftRegs : List (Reg × Word) := [(1#5, 0x80000001#32), (2#5, 0x21#32)]

theorem test_shifts :
    regAfter (fresh shiftRegs []) 0x08411003#32 3#5 = some 2#32 ∧
      regAfter (fresh shiftRegs []) 0x08412003#32 3#5 = some 0x40000000#32 ∧
      regAfter (fresh shiftRegs []) 0x08413003#32 3#5 = some 0xc0000000#32 ∧
      regAfter (fresh shiftRegs []) 0x0061101f#32 3#5 = some 0x80000000#32 ∧
      regAfter (fresh shiftRegs []) 0x0061201f#32 3#5 = some 1#32 ∧
      regAfter (fresh shiftRegs []) 0x0061301f#32 3#5 = some 0xffffffff#32 ∧
      refusalOf (fresh shiftRegs []) 0x00611025#32 = some .nonZeroMustBeZero := by decide

/-- Bytes 81 82 f3 84 at 2000. -/
def loadState (r1 r2 : Word) : State := fresh [(1#5, r1), (2#5, r2)] [(0x2000#32, 0x8182f384#32)]

theorem test_loads_indexed :
    regAfter (loadState 0x1ffe#32 3#32) 0x28411803#32 3#5 = some 0xffffff82#32 ∧
      regAfter (loadState 0x2003#32 0xfffffffe#32) 0x28413803#32 3#5 = some 0x82#32 ∧
      regAfter (loadState 0x2000#32 2#32) 0x28410803#32 3#5 = some 0xfffff384#32 ∧
      regAfter (little (loadState 0x2000#32 2#32)) 0x28412803#32 3#5 = some 0x84f3#32 ∧
      regAfter (little (loadState 0x1000#32 0x1000#32)) 0x28410003#32 3#5 = some 0x84f38281#32 ∧
      regAfter (loadState 0x2004#32 0xfffffffe#32) 0x28414803#32 3#5 = some 0xffff8182#32 ∧
      regAfter (loadState 0x2002#32 0x80000000#32) 0x28416803#32 3#5 = some 0xf384#32 ∧
      regAfter (loadState 0x1ffc#32 1#32) 0x28414003#32 3#5 = some 0x8182f384#32 := by decide

theorem test_loads_displacement :
    regAfter (loadState 0x2000#32 0#32) 0x20611803#32 3#5 = some 0xffffff84#32 ∧
      regAfter (loadState 0x2004#32 0#32) 0x20613bff#32 3#5 = some 0x84#32 ∧
      regAfter (little (loadState 0x2000#32 0#32)) 0x20610801#32 3#5 = some 0xffff84f3#32 ∧
      regAfter (loadState 0x2004#32 0#32) 0x20612bff#32 3#5 = some 0xf384#32 ∧
      regAfter (loadState 0x2004#32 0#32) 0x206103ff#32 3#5 = some 0x8182f384#32 ∧
      refusalOf (loadState 0x2002#32 0#32) 0x20610000#32 = some .misalignedAccess := by decide

theorem test_stores_indexed :
    bytesAfter (fresh [(1#5, 0x2000#32), (2#5, 3#32), (3#5, 0xffffff7f#32)] []) 0x28411c03#32 =
        [0, 0, 0, 0x7f, 0, 0, 0, 0] ∧
      bytesAfter (little (fresh [(1#5, 0x2000#32), (2#5, 6#32), (3#5, 0xbeef#32)] [])) 0x28410c03#32 =
        [0, 0, 0, 0, 0, 0, 0xef, 0xbe] ∧
      bytesAfter (fresh [(1#5, 0x2008#32), (2#5, 0xfffffffc#32), (3#5, 0xcafef00d#32)] []) 0x28410403#32 =
        [0, 0, 0, 0, 0xca, 0xfe, 0xf0, 0x0d] ∧
      bytesAfter (fresh [(1#5, 0x2000#32), (2#5, 3#32), (3#5, 0x11112222#32)] []) 0x28414c03#32 =
        [0, 0, 0, 0, 0, 0, 0x22, 0x22] ∧
      bytesAfter (fresh [(1#5, 0x2000#32), (2#5, 1#32), (3#5, 0xa5a5a5a5#32)] []) 0x28414403#32 =
        [0, 0, 0, 0, 0xa5, 0xa5, 0xa5, 0xa5] := by decide

theorem test_stores_displacement :
    bytesAfter (fresh [(1#5, 0x2200#32), (3#5, 0xee#32)] []) 0x20611e00#32 = [0xee, 0, 0, 0, 0, 0, 0, 0] ∧
      bytesAfter (little (fresh [(1#5, 0x2404#32), (3#5, 0x0a0b#32)] [])) 0x20610e00#32 =
        [0, 0, 0, 0, 0x0b, 0x0a, 0, 0] ∧
      bytesAfter (fresh [(1#5, 0x1808#32), (3#5, 0x01020304#32)] []) 0x206105ff#32 = [0, 0, 0, 0, 1, 2, 3, 4] := by
  decide

theorem test_misc :
    regAfter (fresh [(1#5, 7#32), (2#5, 0x10#32), (3#5, 9#32)] []) 0x08222403#32 3#5 = some 9#32 ∧
      regAfter (fresh [(1#5, 7#32), (3#5, 9#32)] []) 0x08202403#32 3#5 = some 7#32 ∧
      regAfter (fresh [(1#5, 7#32), (2#5, 0x80000000#32), (3#5, 9#32)] []) 0x08223403#32 3#5 = some 7#32 ∧
      regAfter (fresh [(1#5, 0xfffffffb#32)] []) 0x00615000#32 3#5 = some 0x1c#32 ∧
      regAfter (fresh [] []) 0x00605000#32 3#5 = some 0x1f#32 ∧
      regAfter (fresh [(1#5, 0x12345678#32)] []) 0x00616000#32 3#5 = some 0x78563412#32 := by decide

theorem test_swap_same_register :
    regAfter (fresh [(1#5, 0x2000#32)] [(0x2000#32, 0x55555555#32)]) 0x20213c00#32 1#5 = some 0x55555555#32 ∧
      bytesAfter (fresh [(1#5, 0x2000#32)] [(0x2000#32, 0x55555555#32)]) 0x20213c00#32 =
        [0, 0, 0x20, 0, 0, 0, 0, 0] := by decide

theorem test_trap :
    controlAfter (sys 0x17#32 []) 0x64800005#32 = [0x1a, 0x17, 0x1004, 0, 0, 0x84000500] ∧
      regAfter (sys 0x17#32 []) 0x648003ff#32 4#5 = some 0xffffffff#32 := by decide

theorem test_sbrk :
    controlAfter (sys 0x1f#32 []) 0x64004c00#32 = [0x1c, 0, 0, 0x1f, 0x1004, 0x84000200] ∧
      controlAfter (sys 0x09#32 []) 0x64004c00#32 = [0x08, 0x09, 0x1000, 0, 0, 0x80000100] := by decide

theorem test_rte :
    controlAfter { sys 0x08#32 [] with esr := 0xffffff81#32, epc := 0x4000#32 } 0x64000400#32 =
        [0x01, 0xffffff81, 0x4000, 0, 0, 0x4000] ∧
      controlAfter { sys 0x0c#32 [] with esr := 0x01#32, dsr := 0x2b#32, dpc := 0x5000#32 } 0x64000400#32 =
        [0x2b, 0x01, 0, 0x2b, 0x5000, 0x5000] := by decide

theorem test_sleep :
    controlAfter (sys 0x09#32 []) 0x64000c00#32 = [0x09, 0, 0, 0, 0, 0x1004] ∧
      refusalOf (sys 0x08#32 []) 0x64000c00#32 = some .sleepInterruptsDisabled := by decide

theorem test_rcr :
    regAfter (sys 0x5f#32 []) 0x64201000#32 1#5 = some 0x5f#32 ∧
      controlAfter (sys 0x00#32 []) 0x6420101f#32 = [0x08, 0x00, 0x1000, 0, 0, 0x80000100] := by decide

theorem test_wcr :
    controlAfter (sys 0x08#32 [(1#5, 0xffffffff#32)]) 0x64201400#32 = [0x7f, 0, 0, 0, 0, 0x1004] ∧
      controlAfter (sys 0x0f#32 []) 0x64001400#32 = [0x08, 0, 0, 0, 0, 0x1004] ∧
      refusalOf (sys 0x08#32 []) 0x64201403#32 = some .undefinedControlRegister := by decide

theorem test_modules_and_commands_by_default :
    refusalOf (sys 0x08#32 []) 0x64202000#32 = some .moduleRegisterAbsent ∧
      refusalOf (sys 0x00#32 []) 0x642325ff#32 = some .modulePrivilegeNotStated ∧
      refusalOf (sys 0x08#32 []) 0x00223400#32 = some (.commandNotDefined .itlb) ∧
      controlAfter (sys 0x00#32 []) 0x00222400#32 = [0x08, 0x00, 0x1000, 0, 0, 0x80000100] ∧
      refusalOf (sys 0x00#32 []) 0x00221400#32 = some (.commandNotDefined .icache) ∧
      refusalOf (sys 0x08#32 []) 0x00220400#32 = some (.commandNotDefined .dcache) := by decide

theorem test_reserved_instruction :
    controlAfter (sys 0x09#32 []) 0xffffffff#32 = [0x08, 0x09, 0x1000, 0, 0, 0x80000100] := by decide

theorem test_interrupt_at_boundary :
    controlAfter { sys 0x09#32 [] with intRequests := [false] } 0x08000800#32 = [0x09, 0, 0, 0, 0, 0x1004] ∧
      (after (sys 0x09#32 []) (step { sys 0x09#32 [] with intRequests := [true] })).pc = 0x80000400#32 := by decide

/-! ## Witnesses: the hypotheses of the statements are met -/

/-- A platform on which loads, stores and fetches fault at the word 3000, and on which misaligned accesses and a
misaligned pc raise their exceptions. -/
def faulty : Config :=
  { Config.default with
    misalignedData := .dfault
    misalignedPc := .ifault
    accessRules := [⟨.load, 0x3000#32, 0x3003#32, none, none⟩, ⟨.store, 0x3000#32, 0x3003#32, none, none⟩,
      ⟨.fetch, 0x3000#32, 0x3003#32, none, none⟩] }

/-- A platform with a module register and one command of each unit, DCACHE's a privileged one. -/
def equipped : Config :=
  { Config.default with
    moduleRegs := [(3#3, 0#9), (3#3, 511#9)]
    commands := [⟨.itlb, 1#4, true⟩, ⟨.dtlb, 1#4, true⟩, ⟨.icache, 1#4, false⟩, ⟨.dcache, 1#4, true⟩] }

/-- A state at 1000 with R1 and R2 set, on a platform. -/
def onPlatform (cfg : Config) (sr r1 r2 : Word) : State :=
  { sys sr [(1#5, r1), (2#5, r2)] with cfg := cfg }

/-- A state that fetches the word `w` at 1000. -/
def fetching (cfg : Config) (sr w : Word) : State := { onPlatform cfg sr 0x2000#32 4#32 with mem := placeAll [] ((0x1000#32, w) :: vectors) }

theorem witness_MultiplyUnsigned :
    ((3#5 : Reg) ≠ 4#5 ∨ (4#5 : Reg) = 0#5) ∧ ((0#5 : Reg) ≠ 0#5 ∨ (0#5 : Reg) = 0#5) ∧ (3#5 : Reg) = 3#5 ∧
      (3#5 : Reg) ≠ 0#5 := by decide

theorem witness_ByteOrder :
    (loadState 0#32 0#32).cfg.endian = .big ∧ (little (loadState 0#32 0#32)).cfg.endian = .little ∧ 0 < 4 ∧ 3 < 4 := by
  decide

/-- LR8, LR8U, LR16, LR16U, LR32 at 2004; LX16, LX16U at 2008; LX32 at 2010. -/
theorem witness_LoadsIndexed_accessible :
    let s := onPlatform faulty 0x08#32 0x2000#32 4#32
    Accessible s .load (s.reg 1#5 + s.reg 2#5) .byte ∧ Accessible s .load (s.reg 1#5 + s.reg 2#5) .half ∧
      Accessible s .load (s.reg 1#5 + s.reg 2#5) .word ∧ Accessible s .load (s.reg 1#5 + (s.reg 2#5 <<< 1)) .half ∧
      Accessible s .load (s.reg 1#5 + (s.reg 2#5 <<< 2)) .word := by
  unfold Accessible; decide

/-- The sum, with the index scaled by 1, 2 and 4, is 3000, the first address of the platform's rule. -/
theorem witness_LoadsIndexed_fault :
    let s := onPlatform faulty 0x08#32 0x3000#32 0#32
    (∀ size ∈ [AccessSize.byte, .half, .word], isAligned (s.reg 1#5 + s.reg 2#5) size = true ∧
      accessFault s.cfg .load (s.reg 1#5 + s.reg 2#5) size s.mode = true) ∧
      isAligned (s.reg 1#5 + (s.reg 2#5 <<< 1)) .half = true ∧
      accessFault s.cfg .load (s.reg 1#5 + (s.reg 2#5 <<< 1)) .half s.mode = true ∧
      isAligned (s.reg 1#5 + (s.reg 2#5 <<< 2)) .word = true ∧
      accessFault s.cfg .load (s.reg 1#5 + (s.reg 2#5 <<< 2)) .word s.mode = true ∧ VectorReadable s 0x18#32 := by
  unfold VectorReadable; decide

/-- The three addresses are odd: a refusal by default, DFAULT under the parameter. -/
theorem witness_LoadsIndexed_misaligned :
    let s := onPlatform Config.default 0x08#32 0x2001#32 4#32
    let t := onPlatform faulty 0x08#32 0x2001#32 4#32
    (isAligned (s.reg 1#5 + s.reg 2#5) .half = false ∧ isAligned (s.reg 1#5 + s.reg 2#5) .word = false ∧
      isAligned (s.reg 1#5 + (s.reg 2#5 <<< 1)) .half = false ∧
      isAligned (s.reg 1#5 + (s.reg 2#5 <<< 2)) .word = false ∧ s.cfg.misalignedData = .refuse) ∧
    (isAligned (t.reg 1#5 + t.reg 2#5) .half = false ∧ isAligned (t.reg 1#5 + t.reg 2#5) .word = false ∧
      isAligned (t.reg 1#5 + (t.reg 2#5 <<< 1)) .half = false ∧
      isAligned (t.reg 1#5 + (t.reg 2#5 <<< 2)) .word = false ∧ t.cfg.misalignedData = .dfault ∧
      VectorReadable t 0x18#32) := by
  unfold VectorReadable; decide

/-- The displacement is the most negative one, -512, and the addresses 1e00, 1c00 and 1800. -/
theorem witness_LoadsDisplacement_accessible :
    let s := onPlatform faulty 0x08#32 0x2000#32 4#32
    Accessible s .load (s.reg 1#5 + (512#10).signExtend 32) .byte ∧
      Accessible s .load (s.reg 1#5 + ((512#10).signExtend 32 <<< 1)) .half ∧
      Accessible s .load (s.reg 1#5 + ((512#10).signExtend 32 <<< 2)) .word := by
  unfold Accessible; decide

theorem witness_LoadsDisplacement_fault :
    let s := onPlatform faulty 0x08#32 0x3000#32 0#32
    (isAligned (s.reg 1#5 + (0#10).signExtend 32) .byte = true ∧
      accessFault s.cfg .load (s.reg 1#5 + (0#10).signExtend 32) .byte s.mode = true) ∧
    (isAligned (s.reg 1#5 + ((0#10).signExtend 32 <<< 1)) .half = true ∧
      accessFault s.cfg .load (s.reg 1#5 + ((0#10).signExtend 32 <<< 1)) .half s.mode = true) ∧
    (isAligned (s.reg 1#5 + ((0#10).signExtend 32 <<< 2)) .word = true ∧
      accessFault s.cfg .load (s.reg 1#5 + ((0#10).signExtend 32 <<< 2)) .word s.mode = true) ∧
    VectorReadable s 0x18#32 := by
  unfold VectorReadable; decide

theorem witness_LoadsDisplacement_misaligned :
    let s := onPlatform Config.default 0x08#32 0x2001#32 0#32
    let t := onPlatform faulty 0x08#32 0x2001#32 0#32
    (isAligned (s.reg 1#5 + ((511#10).signExtend 32 <<< 1)) .half = false ∧
      isAligned (s.reg 1#5 + ((511#10).signExtend 32 <<< 2)) .word = false ∧ s.cfg.misalignedData = .refuse) ∧
    (isAligned (t.reg 1#5 + ((511#10).signExtend 32 <<< 1)) .half = false ∧
      isAligned (t.reg 1#5 + ((511#10).signExtend 32 <<< 2)) .word = false ∧ t.cfg.misalignedData = .dfault ∧
      VectorReadable t 0x18#32) := by
  unfold VectorReadable; decide

theorem witness_StoresIndexed_accessible :
    let s := onPlatform faulty 0x08#32 0x2000#32 4#32
    Accessible s .store (s.reg 1#5 + s.reg 2#5) .byte ∧ Accessible s .store (s.reg 1#5 + s.reg 2#5) .half ∧
      Accessible s .store (s.reg 1#5 + s.reg 2#5) .word ∧ Accessible s .store (s.reg 1#5 + (s.reg 2#5 <<< 1)) .half ∧
      Accessible s .store (s.reg 1#5 + (s.reg 2#5 <<< 2)) .word := by
  unfold Accessible; decide

theorem witness_StoresIndexed_fault :
    let s := onPlatform faulty 0x08#32 0x3000#32 0#32
    (∀ size ∈ [AccessSize.byte, .half, .word], isAligned (s.reg 1#5 + s.reg 2#5) size = true ∧
      accessFault s.cfg .store (s.reg 1#5 + s.reg 2#5) size s.mode = true) ∧
      isAligned (s.reg 1#5 + (s.reg 2#5 <<< 1)) .half = true ∧
      accessFault s.cfg .store (s.reg 1#5 + (s.reg 2#5 <<< 1)) .half s.mode = true ∧
      isAligned (s.reg 1#5 + (s.reg 2#5 <<< 2)) .word = true ∧
      accessFault s.cfg .store (s.reg 1#5 + (s.reg 2#5 <<< 2)) .word s.mode = true ∧ VectorReadable s 0x18#32 := by
  unfold VectorReadable; decide

/-- The misaligned addresses of the stores are those of the loads: `AccessStops` asks the same of both. -/
theorem witness_StoresIndexed_misaligned :
    let s := onPlatform Config.default 0x08#32 0x2001#32 4#32
    let t := onPlatform faulty 0x08#32 0x2001#32 4#32
    (isAligned (s.reg 1#5 + s.reg 2#5) .half = false ∧ isAligned (s.reg 1#5 + s.reg 2#5) .word = false ∧
      isAligned (s.reg 1#5 + (s.reg 2#5 <<< 1)) .half = false ∧
      isAligned (s.reg 1#5 + (s.reg 2#5 <<< 2)) .word = false ∧ s.cfg.misalignedData = .refuse) ∧
    (isAligned (t.reg 1#5 + t.reg 2#5) .half = false ∧ isAligned (t.reg 1#5 + t.reg 2#5) .word = false ∧
      isAligned (t.reg 1#5 + (t.reg 2#5 <<< 1)) .half = false ∧
      isAligned (t.reg 1#5 + (t.reg 2#5 <<< 2)) .word = false ∧ t.cfg.misalignedData = .dfault ∧
      VectorReadable t 0x18#32) := by
  unfold VectorReadable; decide

theorem witness_StoresDisplacement_accessible :
    let s := onPlatform faulty 0x08#32 0x2000#32 4#32
    Accessible s .store (s.reg 1#5 + (511#10).signExtend 32) .byte ∧
      Accessible s .store (s.reg 1#5 + ((511#10).signExtend 32 <<< 1)) .half ∧
      Accessible s .store (s.reg 1#5 + ((511#10).signExtend 32 <<< 2)) .word := by
  unfold Accessible; decide

theorem witness_StoresDisplacement_fault :
    let s := onPlatform faulty 0x08#32 0x3000#32 0#32
    (isAligned (s.reg 1#5 + (0#10).signExtend 32) .byte = true ∧
      accessFault s.cfg .store (s.reg 1#5 + (0#10).signExtend 32) .byte s.mode = true) ∧
    (isAligned (s.reg 1#5 + ((0#10).signExtend 32 <<< 1)) .half = true ∧
      accessFault s.cfg .store (s.reg 1#5 + ((0#10).signExtend 32 <<< 1)) .half s.mode = true) ∧
    (isAligned (s.reg 1#5 + ((0#10).signExtend 32 <<< 2)) .word = true ∧
      accessFault s.cfg .store (s.reg 1#5 + ((0#10).signExtend 32 <<< 2)) .word s.mode = true) ∧
    VectorReadable s 0x18#32 := by
  unfold VectorReadable; decide

theorem witness_StoresDisplacement_misaligned :
    let s := onPlatform Config.default 0x08#32 0x2001#32 0#32
    let t := onPlatform faulty 0x08#32 0x2001#32 0#32
    (isAligned (s.reg 1#5 + ((512#10).signExtend 32 <<< 1)) .half = false ∧
      isAligned (s.reg 1#5 + ((512#10).signExtend 32 <<< 2)) .word = false ∧ s.cfg.misalignedData = .refuse) ∧
    (isAligned (t.reg 1#5 + ((512#10).signExtend 32 <<< 1)) .half = false ∧
      isAligned (t.reg 1#5 + ((512#10).signExtend 32 <<< 2)) .word = false ∧ t.cfg.misalignedData = .dfault ∧
      VectorReadable t 0x18#32) := by
  unfold VectorReadable; decide

theorem witness_SwapExchanges :
    let s := onPlatform faulty 0x08#32 0x2000#32 4#32
    let f := onPlatform faulty 0x08#32 0x3000#32 4#32
    let m := onPlatform Config.default 0x08#32 0x2002#32 4#32
    let d := onPlatform faulty 0x08#32 0x2002#32 4#32
    let off := (0#10).signExtend 32 <<< 2
    (Accessible s .load (s.reg 1#5 + off) .word ∧ Accessible s .store (s.reg 1#5 + off) .word) ∧
      (isAligned (f.reg 1#5 + off) .word = true ∧ accessFault f.cfg .load (f.reg 1#5 + off) .word f.mode = true ∧
        accessFault f.cfg .store (f.reg 1#5 + off) .word f.mode = true ∧ VectorReadable f 0x18#32) ∧
      (isAligned (m.reg 1#5 + off) .word = false ∧ m.cfg.misalignedData = .refuse) ∧
      (isAligned (d.reg 1#5 + off) .word = false ∧ d.cfg.misalignedData = .dfault ∧ VectorReadable d 0x18#32) := by
  unfold Accessible VectorReadable; decide

theorem witness_ConditionalMoves :
    (onPlatform Config.default 0x08#32 0#32 7#32).reg 1#5 = 0#32 ∧
      (onPlatform Config.default 0x08#32 0x80000000#32 7#32).reg 1#5 ≠ 0#32 := by decide

theorem witness_MinimumAndMaximum :
    (4#5 : Reg) ≠ 2#5 ∧ (4#5 : Reg) ≠ 3#5 ∧ (4#5 : Reg) ≠ 0#5 ∧ (2#5 : Reg) ≠ 0#5 := by decide

theorem witness_TargetsKeepPcAlignment :
    (∀ ra rb u10, Instr.beq 1#5 2#5 4#10 ≠ .ja ra rb u10) ∧ Instr.beq 1#5 2#5 4#10 ≠ .rte ∧
      ∃ t, exec (.beq 1#5 2#5 4#10) (sys 0x08#32 []) = .next t :=
  ⟨fun _ _ _ h => by simp at h, by decide, _, next_of_isNext _ (sys 0x08#32 []) (by decide)⟩

theorem witness_OnlyStoresChangeMemory :
    (∃ t, exec (.add 3#5 1#5 2#5) (sys 0x08#32 []) = .next t) ∧
      (∀ ra rb rc, Instr.add 3#5 1#5 2#5 ≠ .sr8 ra rb rc ∧ Instr.add 3#5 1#5 2#5 ≠ .sr16 ra rb rc ∧
        Instr.add 3#5 1#5 2#5 ≠ .sr32 ra rb rc ∧ Instr.add 3#5 1#5 2#5 ≠ .sx16 ra rb rc ∧
        Instr.add 3#5 1#5 2#5 ≠ .sx32 ra rb rc) ∧
      (∀ ra rb imm, Instr.add 3#5 1#5 2#5 ≠ .sd8 ra rb imm ∧ Instr.add 3#5 1#5 2#5 ≠ .sd16 ra rb imm ∧
        Instr.add 3#5 1#5 2#5 ≠ .sd32 ra rb imm ∧ Instr.add 3#5 1#5 2#5 ≠ .swap ra rb imm) :=
  ⟨⟨_, next_of_isNext _ (sys 0x08#32 []) (by decide)⟩, fun _ _ _ => by simp, fun _ _ _ => by simp⟩

theorem witness_TrapEnters : VectorReadable (onPlatform faulty 0x00#32 0#32 0#32) 0x14#32 := by
  unfold VectorReadable; decide

theorem witness_SoftwareBreak :
    ((sys 0x02#32 []).de = true ∧ VectorReadable (sys 0x02#32 []) 0x08#32) ∧
      ((sys 0x09#32 []).de = false ∧ VectorReadable (sys 0x09#32 []) 0x04#32) := by
  unfold VectorReadable; decide

/-- User mode and a readable ILLINS vector: the premises of `IllegalInUserMode` in the statements of RTE, SLEEP, RCR, WCR,
ITLB and DTLB, and, with DCACHE's privileged command, of `CacheCommands`. -/
theorem witness_IllegalInUserMode :
    (onPlatform equipped 0x00#32 0#32 0#32).mode = .user ∧
      VectorReadable (onPlatform equipped 0x00#32 0#32 0#32) 0x04#32 ∧
      findCommand equipped .dcache 1#4 = some ⟨.dcache, 1#4, true⟩ := by
  unfold VectorReadable; decide

theorem witness_ReturnFromException :
    ((sys 0x08#32 []).mode = .supervisor ∧ (sys 0x08#32 []).ds = false) ∧
      ((sys 0x0c#32 []).mode = .supervisor ∧ (sys 0x0c#32 []).ds = true) := by decide

theorem witness_SleepWaits :
    ((sys 0x09#32 []).mode = .supervisor ∧ (sys 0x09#32 []).cfg.sleepPause = false ∧ (sys 0x09#32 []).ie = true) ∧
      ((sys 0x08#32 []).mode = .supervisor ∧ (sys 0x08#32 []).cfg.sleepPause = false ∧ (sys 0x08#32 []).ie = false) ∧
      ((onPlatform { Config.default with sleepPause := true } 0x08#32 0#32 0#32).mode = .supervisor ∧
        (onPlatform { Config.default with sleepPause := true } 0x08#32 0#32 0#32).cfg.sleepPause = true) := by decide

theorem witness_SleepingIdlesUntilInterrupt :
    let s := { sys 0x09#32 [] with sleeping := true, intRequests := [false] }
    let t := { sys 0x09#32 [] with sleeping := true, intRequests := [true] }
    (s.sleeping = true ∧ s.ie = true ∧ s.intRequests.headD false = false) ∧
      (t.sleeping = true ∧ t.ie = true ∧ t.intRequests.headD false = true ∧ VectorReadable t 0x10#32) := by
  unfold VectorReadable; decide

theorem witness_ControlRegisters :
    (sys 0x08#32 []).mode = .supervisor ∧ (0#5 ∈ [0#5, 1#5, 2#5, 5#5, 6#5]) ∧ (6#5 ∈ [0#5, 1#5, 2#5, 5#5, 6#5]) ∧
      (3#5 ∉ [0#5, 1#5, 2#5, 5#5, 6#5]) ∧ (31#5 ∉ [0#5, 1#5, 2#5, 5#5, 6#5]) := by decide

/-- CLD and CST: the last number in range and the first out of range; user mode; a register the platform lacks. -/
theorem witness_ModuleRegisters :
    ((511#10).toNat ≤ 511 ∧ (onPlatform equipped 0x08#32 0#32 0#32).mode = .supervisor ∧
        (onPlatform equipped 0x08#32 0#32 0#32).cfg.moduleRegs.contains (3#3, (511#10).setWidth 9) = true) ∧
      511 < (512#10).toNat ∧
      ((511#10).toNat ≤ 511 ∧ (onPlatform equipped 0x00#32 0#32 0#32).mode = .user) ∧
      ((510#10).toNat ≤ 511 ∧ (onPlatform equipped 0x08#32 0#32 0#32).mode = .supervisor ∧
        (onPlatform equipped 0x08#32 0#32 0#32).cfg.moduleRegs.contains (3#3, (510#10).setWidth 9) = false) := by decide

theorem witness_TlbCommands :
    let s := onPlatform equipped 0x08#32 0#32 0#32
    s.mode = .supervisor ∧ findCommand s.cfg .itlb 1#4 = some ⟨.itlb, 1#4, true⟩ ∧
      findCommand s.cfg .dtlb 1#4 = some ⟨.dtlb, 1#4, true⟩ ∧ findCommand s.cfg .itlb 15#4 = none ∧
      findCommand s.cfg .dtlb 0#4 = none := by decide

/-- A cache command that is not privileged, in user mode; one that is, in supervisor mode; one not defined. -/
theorem witness_CacheCommands :
    let u := onPlatform equipped 0x00#32 0#32 0#32
    let s := onPlatform equipped 0x08#32 0#32 0#32
    (u.mode = .supervisor ∨ false = false) ∧ findCommand u.cfg .icache 1#4 = some ⟨.icache, 1#4, false⟩ ∧
      (s.mode = .supervisor ∨ true = false) ∧ findCommand s.cfg .dcache 1#4 = some ⟨.dcache, 1#4, true⟩ ∧
      findCommand s.cfg .icache 0#4 = none ∧ findCommand s.cfg .dcache 15#4 = none := by decide

/-- ICACHE's command as a privileged one, in user mode. -/
theorem witness_CacheCommands_privileged :
    let s := onPlatform { equipped with commands := [⟨.icache, 1#4, true⟩] } 0x00#32 0#32 0#32
    findCommand s.cfg .icache 1#4 = some ⟨.icache, 1#4, true⟩ ∧ s.mode = .user ∧ VectorReadable s 0x04#32 := by
  unfold VectorReadable; decide

theorem witness_StepRunsTheInstruction :
    FetchesAt (fetching Config.default 0x08#32 0x08410003#32) ∧
      decode ((fetching Config.default 0x08#32 0x08410003#32).wordAt
        (fetching Config.default 0x08#32 0x08410003#32).pc) = .ok (.add 3#5 1#5 2#5) := by
  unfold FetchesAt; decide

theorem witness_UnassignedRaisesIllins :
    let s := fetching Config.default 0x00#32 0xffffffff#32
    FetchesAt s ∧ isAssigned (op1 (s.wordAt s.pc)) (op2 (s.wordAt s.pc)) = false ∧ VectorReadable s 0x04#32 := by
  unfold FetchesAt VectorReadable; decide

/-- SLLI with bits 9:5 = 00001, ICACHE with bit 25 set, CST with bits 20:19 = 10. -/
theorem witness_MustBeZeroFields :
    let a := fetching Config.default 0x08#32 0x00611025#32
    let b := fetching Config.default 0x08#32 0x02221400#32
    let c := fetching Config.default 0x08#32 0x64302400#32
    (FetchesAt a ∧ op1 (a.wordAt a.pc) = 0b000000#6 ∧
        op2 (a.wordAt a.pc) ∈ [0b000100#6, 0b001000#6, 0b001100#6] ∧ f9 (a.wordAt a.pc) ≠ 0#5) ∧
      (FetchesAt b ∧ op1 (b.wordAt b.pc) = 0b000000#6 ∧ op2 (b.wordAt b.pc) ∈ [0b000001#6, 0b000101#6] ∧
        (b.wordAt b.pc).getLsbD 25 = true) ∧
      (FetchesAt c ∧ op1 (c.wordAt c.pc) = 0b011001#6 ∧ op2 (c.wordAt c.pc) ∈ [0b001000#6, 0b001001#6] ∧
        (c.wordAt c.pc).extractLsb' 19 2 ≠ 0#2) := by
  unfold FetchesAt; decide

/-- ITLB with bit 25 set, in each mode. -/
theorem witness_MustBeZeroFields_privileged :
    let s := fetching Config.default 0x08#32 0x02223400#32
    let u := fetching Config.default 0x00#32 0x02223400#32
    (FetchesAt s ∧ op1 (s.wordAt s.pc) = 0b000000#6 ∧ op2 (s.wordAt s.pc) ∈ [0b001001#6, 0b001101#6] ∧
        (s.wordAt s.pc).getLsbD 25 = true ∧ s.mode = .supervisor) ∧
      (FetchesAt u ∧ op1 (u.wordAt u.pc) = 0b000000#6 ∧ op2 (u.wordAt u.pc) ∈ [0b001001#6, 0b001101#6] ∧
        (u.wordAt u.pc).getLsbD 25 = true ∧ u.mode = .user ∧ VectorReadable u 0x04#32) := by
  unfold FetchesAt VectorReadable; decide

theorem witness_FetchFaults :
    let f := { onPlatform faulty 0x09#32 0#32 0#32 with pc := 0x3000#32 }
    let m := { onPlatform Config.default 0x08#32 0#32 0#32 with pc := 0x4002#32, intRequests := [true] }
    let i := { onPlatform faulty 0x08#32 0#32 0#32 with pc := 0x4001#32 }
    ((f.intRequests.headD false = false ∨ f.ie = false) ∧ f.sleeping = false ∧ isAligned f.pc .word = true ∧
        accessFault f.cfg .fetch f.pc .word f.mode = true ∧ VectorReadable f 0x18#32) ∧
      ((m.intRequests.headD false = false ∨ m.ie = false) ∧ m.sleeping = false ∧ isAligned m.pc .word = false ∧
        m.cfg.misalignedPc = .refuse) ∧
      ((i.intRequests.headD false = false ∨ i.ie = false) ∧ i.sleeping = false ∧ isAligned i.pc .word = false ∧
        i.cfg.misalignedPc = .ifault ∧ VectorReadable i 0x18#32) := by
  unfold VectorReadable; decide

/-- The first and the last byte of the word have been stored to. -/
theorem witness_FetchOfModifiedCode :
    let s := { onPlatform Config.default 0x08#32 0#32 0#32 with stored := [0x1000, 0x1003] }
    (s.intRequests.headD false = false ∨ s.ie = false) ∧ s.sleeping = false ∧ isAligned s.pc .word = true ∧
      accessFault s.cfg .fetch s.pc .word s.mode = false ∧ s.cfg.ifetchCoherent = false ∧
      isStored s.stored (s.pc + BitVec.ofNat 32 0) = true ∧ isStored s.stored (s.pc + BitVec.ofNat 32 3) = true := by
  decide

theorem witness_InterruptAtBoundary :
    let s := { sys 0x09#32 [] with intRequests := [true] }
    s.intRequests.headD false = true ∧ s.ie = true ∧ VectorReadable s 0x10#32 := by
  unfold VectorReadable; decide

theorem witness_EntryMasksInterrupts : ∃ t, enter .sbrk 0x1004#32 (sys 0x0b#32 []) = .next t :=
  ⟨_, next_of_isNext _ (sys 0x0b#32 []) (by decide)⟩

/-- The platform faults on reads of the vector table. -/
def vectorless : Config :=
  { Config.default with accessRules := [⟨.load, 0x80000000#32, 0x8000001f#32, none, none⟩] }

theorem witness_FaultInVectorRead :
    let s := onPlatform vectorless 0x08#32 0#32 0#32
    accessFault s.cfg .load (s.vectorBase .ifault + Exc.offset .ifault) .word .supervisor = true ∧
      accessFault vectorless .load 0x80000000#32 .word .supervisor = true := by decide

/-- A fault rule that takes in the last byte of the reset vector entry but not its address leaves reset as it is. -/
theorem witness_PowerOnReset :
    accessFault { Config.default with accessRules := [⟨.load, 0x80000003#32, 0xffffffff#32, none, none⟩] } .load
      0x80000000#32 .word .supervisor = false := by decide

theorem witness_InvariantAtReset : Memory.wf [⟨0x80000002, 0x10#8⟩] = true := by decide

theorem test_reset_vector_fault_is_refused :
    powerOnReset vectorless [] = .refused .faultDuringExceptionEntry := rfl

/-- The launch memory's word at H'80000000 is 0x00001000: a pointer, not an instruction (R400). -/
theorem test_reset_goes_through_the_vector :
    (match powerOnReset Config.default [⟨0x80000002, 0x10#8⟩] with
      | .next t => t.pc == 0x1000#32 && t.mode == .supervisor
      | _ => false) = true := by decide

theorem witness_TrapThenReturn :
    ∃ t u : State, exec (.trap 4#5 5#10) (sys 0x01#32 []) = .next t ∧ u.esr = t.esr ∧ u.epc = t.epc ∧ u.sr = t.sr :=
  ⟨_, _, next_of_isNext _ (sys 0x01#32 []) (by decide), rfl, rfl, rfl⟩

/-- TRAP from user mode, and RTE to it. -/
theorem witness_ModeTransitions :
    (∃ t, step (fetching Config.default 0x00#32 0x64800005#32) = .next t ∧
      (fetching Config.default 0x00#32 0x64800005#32).mode = .user ∧ t.mode = .supervisor) ∧
    ∃ t, step (fetching Config.default 0x08#32 0x64000400#32) = .next t ∧
      (fetching Config.default 0x08#32 0x64000400#32).mode = .supervisor ∧ t.mode = .user :=
  ⟨⟨_, next_of_isNext _ State.reset (by decide), by decide, by decide⟩,
    _, next_of_isNext _ State.reset (by decide), by decide, by decide⟩

/-- A cache command that is not privileged, sent from user mode. -/
theorem witness_UserModeIsConfined :
    ∃ t, (fetching equipped 0x00#32 0x00221400#32).sleeping = false ∧
      step (fetching equipped 0x00#32 0x00221400#32) = .next t ∧
      (fetching equipped 0x00#32 0x00221400#32).mode = .user ∧ t.mode = .user :=
  ⟨_, by decide, next_of_isNext _ State.reset (by decide), by decide, by decide⟩

/-- Other control registers that differ in all but the mode and the interrupt enable. -/
theorem witness_UserModeIsConfined_control :
    let s := fetching equipped 0x00#32 0x00221400#32
    let c := { onPlatform Config.default 0x76#32 0#32 0#32 with esr := 0xff#32, epc := 4#32, dsr := 1#32, dpc := 8#32 }
    c.mode = .user ∧ c.ie = s.ie ∧ c.sr ≠ s.sr ∧ c.esr ≠ s.esr ∧ c.epc ≠ s.epc ∧ c.dsr ≠ s.dsr ∧ c.dpc ≠ s.dpc := by decide

theorem witness_ConfigurationIsFixed : ∃ t, step (fetching faulty 0x08#32 0x08410003#32) = .next t :=
  ⟨_, next_of_isNext _ State.reset (by decide)⟩

theorem witness_RegisterFile : (31#5 : Reg) ≠ 0#5 ∧ (1#5 : Reg) ≠ 31#5 := by decide

/-- A store: memory is not empty before and changes. -/
theorem witness_StepKeepsInvariant :
    State.Inv (fetching Config.default 0x08#32 0x20210400#32) ∧
      ∃ t, step (fetching Config.default 0x08#32 0x20210400#32) = .next t :=
  ⟨by unfold State.Inv; decide, _, next_of_isNext _ State.reset (by decide)⟩

theorem witness_DecodeIsTheOpcodeTable :
    decode 0x08410003#32 = .ok (.add 3#5 1#5 2#5) ∧
      0x08410003#32 &&& (opcodeRow (.add 0#5 0#5 0#5)).mask = (opcodeRow (.add 0#5 0#5 0#5)).pattern := by decide

/-- ADD with ones in its don't-care field. -/
theorem witness_DontCareFields :
    decode 0x08410003#32 = .ok (.add 3#5 1#5 2#5) ∧
      0x084103e3#32 &&& ((opcodeRow (.add 3#5 1#5 2#5)).mask ||| (opcodeRow (.add 3#5 1#5 2#5)).fields) =
        0x08410003#32 &&& ((opcodeRow (.add 3#5 1#5 2#5)).mask ||| (opcodeRow (.add 3#5 1#5 2#5)).fields) := by decide

/-- Values with bit 10 set, where the plain high part would be wrong. -/
theorem witness_AssemblerOperators : 0x123457fe#32 &&& 1#32 = 0#32 ∧ 0x123457fc#32 &&& 3#32 = 0#32 := by decide

/-- The printed values of 95_test_vectors.md part 1.8. -/
theorem test_assembler_operators :
    opH21 0x12345678#32 = 0x2468a#21 ∧ opL11 0x12345678#32 = 0x678#16 ∧ opHo11 0x123457fe#32 = 0x3ff#10 ∧
      opEh21 0x123457fe#32 = 0x2468b#21 := by decide

end Sys2Proof.Tests
end

section
/-! The register file and power-on reset (10_state.md R21, R43). -/

namespace Sys2Proof.Machine

open Sys2Proof

/-! ## The fields of the status register after power-on reset (R43) -/

section
variable (cfg : Config) (mem : Memory)

@[simp] theorem State.powerOn_mode : (State.powerOn cfg mem).mode = .supervisor := by
  rw [State.mode_def, State.powerOn_sr]; rfl

@[simp] theorem State.powerOn_ie : (State.powerOn cfg mem).ie = false := by
  rw [State.ie_def, State.powerOn_sr]; rfl

@[simp] theorem State.powerOn_de : (State.powerOn cfg mem).de = false := by
  rw [State.de_def, State.powerOn_sr]; rfl

@[simp] theorem State.powerOn_ds : (State.powerOn cfg mem).ds = false := by
  rw [State.ds_def, State.powerOn_sr]; rfl

@[simp] theorem State.powerOn_vb : (State.powerOn cfg mem).vb = 0#3 := by
  rw [State.vb_def, State.powerOn_sr]; rfl

end

end Sys2Proof.Machine

namespace Sys2Proof.Proofs

open Sys2Proof Sys2Proof.Machine

/-- Settles O52, from what a register reads after a write to it (R0 set apart) and to another register. -/
theorem registerFile : Obligations.RegisterFile := by
  unfold Obligations.RegisterFile
  intro s r q v
  refine ⟨State.reg_zero s, State.setReg_zero s v, fun hr => ?readBack, State.reg_setReg_ne s v⟩
  case readBack => rw [State.reg_setReg_same, if_neg hr]

/-- Settles O53: where the vector entry can be read, reset gives `State.powerOn`, whose fields are those of R43. -/
theorem powerOnReset : Obligations.PowerOnReset := by
  unfold Obligations.PowerOnReset
  intro cfg mem hreadable
  exact ⟨State.powerOn cfg mem, powerOnReset_readable hreadable, State.powerOn_reg cfg mem, State.powerOn_sr cfg mem,
    State.powerOn_mode cfg mem, State.powerOn_ie cfg mem, State.powerOn_de cfg mem, State.powerOn_ds cfg mem,
    State.powerOn_vb cfg mem, State.powerOn_pc cfg mem, State.powerOn_sleeping cfg mem, State.powerOn_mem cfg mem,
    State.powerOn_cfg cfg mem⟩

end Sys2Proof.Proofs
end

section
/-! The byte orders (20_memory.md R62): each byte of a word that is read, and the reads written out for each order. -/

namespace Sys2Proof.Machine

open Sys2Proof

/-- Four bytes side by side, counted from the low end, are the four slices of the word they make. -/
theorem slice_append_bytes (b : Nat → Byte) {k : Nat} (hk : k < 4) :
    (b 3 ++ b 2 ++ b 1 ++ b 0).extractLsb' (8 * k) 8 = b k := by
  match k with
  | 0 => exact BitVec.extractLsb'_append_eq_right
  | 1 => exact (BitVec.extractLsb'_append_eq_of_le (by decide)).trans BitVec.extractLsb'_append_eq_right
  | 2 =>
    exact ((BitVec.extractLsb'_append_eq_of_le (by decide)).trans (BitVec.extractLsb'_append_eq_of_le (by decide))).trans
      BitVec.extractLsb'_append_eq_right
  | 3 =>
    exact ((BitVec.extractLsb'_append_eq_of_le (by decide)).trans (BitVec.extractLsb'_append_eq_of_le (by decide))).trans
      BitVec.extractLsb'_append_eq_left

/-- Byte `k` of the word that four bytes make is the `k`-th of them (R62). Big-endian is little-endian with the bytes
counted from the other end. -/
theorem byteOfWord_wordOfBytes (e : Endian) (b : Nat → Byte) {k : Nat} (hk : k < 4) :
    byteOfWord e (wordOfBytes e (b 0) (b 1) (b 2) (b 3)) k = b k := by
  cases e with
  | little => exact slice_append_bytes b hk
  | big =>
    have hslice := slice_append_bytes (fun j => b (3 - j)) (show 3 - k < 4 by omega)
    rwa [show 8 * (3 - k) = 24 - 8 * k by omega, show 3 - (3 - k) = k by omega] at hslice

/-- The byte at `a + k` is byte `k` of the word at `a`, in either order. -/
theorem State.byteAt_eq_byteOfWord (s : State) (a : Word) {k : Nat} (hk : k < 4) :
    s.byteAt (a + BitVec.ofNat 32 k) = byteOfWord s.cfg.endian (s.wordAt a) k := by
  have hbyte := byteOfWord_wordOfBytes s.cfg.endian (fun j => s.byteAt (a + BitVec.ofNat 32 j)) hk
  rw [State.wordAt_bytes, ← hbyte, BitVec.add_zero]

section
variable {s : State} (a : Word)

theorem State.halfAt_big (he : s.cfg.endian = .big) : s.halfAt a = s.byteAt a ++ s.byteAt (a + 1#32) := by
  rw [State.halfAt_bytes, he]; rfl

theorem State.halfAt_little (he : s.cfg.endian = .little) : s.halfAt a = s.byteAt (a + 1#32) ++ s.byteAt a := by
  rw [State.halfAt_bytes, he]; rfl

theorem State.wordAt_big (he : s.cfg.endian = .big) :
    s.wordAt a = s.byteAt a ++ s.byteAt (a + 1#32) ++ s.byteAt (a + 2#32) ++ s.byteAt (a + 3#32) := by
  rw [State.wordAt_bytes, he]; rfl

theorem State.wordAt_little (he : s.cfg.endian = .little) :
    s.wordAt a = s.byteAt (a + 3#32) ++ s.byteAt (a + 2#32) ++ s.byteAt (a + 1#32) ++ s.byteAt a := by
  rw [State.wordAt_bytes, he]; rfl

theorem State.byteAt_slice_big (he : s.cfg.endian = .big) {k : Nat} (hk : k < 4) :
    s.byteAt (a + BitVec.ofNat 32 k) = (s.wordAt a).extractLsb' (24 - 8 * k) 8 := by
  rw [State.byteAt_eq_byteOfWord s a hk, he]; rfl

theorem State.byteAt_slice_little (he : s.cfg.endian = .little) {k : Nat} (hk : k < 4) :
    s.byteAt (a + BitVec.ofNat 32 k) = (s.wordAt a).extractLsb' (8 * k) 8 := by
  rw [State.byteAt_eq_byteOfWord s a hk, he]; rfl

end

end Sys2Proof.Machine

namespace Sys2Proof.Proofs

open Sys2Proof Sys2Proof.Machine

/-- Settles O16, from the reads in each order, the byte of a word that its address says, and the read after a write. -/
theorem byteOrder : Obligations.ByteOrder := by
  unfold Obligations.ByteOrder
  intro s a h w
  refine ⟨fun he => ?big, fun he => ?little, State.halfAt_storeHalf s a h, State.wordAt_storeWord s a w⟩
  case big => exact ⟨State.halfAt_big a he, State.wordAt_big a he, fun k hk => State.byteAt_slice_big a he hk⟩
  case little =>
    exact ⟨State.halfAt_little a he, State.wordAt_little a he, fun k hk => State.byteAt_slice_little a he hk⟩

end Sys2Proof.Proofs
end

section
/-! The immediate load (40_immediate_load.md R141, R142): LHI, and LHI followed by ORI. -/

namespace Sys2Proof

/-- A Format 6 box under LHI's operator is LHI of its two cells (R109, R112). -/
theorem decode_box21_lhi (ra : Reg) (imm : BitVec 21) :
    decode (Machine.box21 0b001001#6 ra imm) = .ok (.lhi ra imm) := by
  rw [decode, op1_box21]
  simp only [f25_box21, i21_box21]

namespace Machine

/-! ## The two immediates as bits -/

/-- The shift of the model is the concatenation the manual draws, `{i21, 11'b0}` (R141). -/
theorem lhiValue_eq_append (hi : BitVec 21) : lhiValue hi = hi ++ 0#11 := by
  have happend := BitVec.setWidth_append_eq_shiftLeft_setWidth_or (w'' := 32) (b := hi) (b' := 0#11)
  rw [BitVec.setWidth_zero, BitVec.or_zero] at happend
  exact happend.symm.trans (BitVec.setWidth_eq _)

/-- An ORI immediate below `2^11` has a clear sign bit, so its sign extension adds zeros (R142). -/
theorem sext32_low11 (lo : BitVec 11) : sext32 (0#5 ++ lo) = 0#21 ++ lo := by
  have hsign : (0#5 ++ lo).msb = false := BitVec.msb_append
  calc sext32 (0#5 ++ lo)
    _ = (0#5 ++ lo).setWidth 32 := BitVec.signExtend_eq_setWidth_of_msb_false hsign
    _ = (lo.setWidth 16).setWidth 32 := congrArg (BitVec.setWidth 32) (BitVec.setWidth_eq_append (by decide)).symm
    _ = lo.setWidth 32 := BitVec.setWidth_setWidth (by decide)
    _ = 0#21 ++ lo := BitVec.setWidth_eq_append (by decide)

/-- The OR of the two halves does not mix them: the high 21 bits stay LHI's, the low 11 are ORI's (R142). -/
theorem lhi_or_low11 (hi : BitVec 21) (lo : BitVec 11) : hi ++ 0#11 ||| sext32 (0#5 ++ lo) = hi ++ lo := by
  rw [sext32_low11]
  exact BitVec.or_append.trans (by rw [BitVec.or_zero, BitVec.zero_or])

/-- Bits 31:11 and 10:0 make up the word. -/
theorem high21_append_low11 (k : Word) : k.extractLsb' 11 21 ++ k.extractLsb' 0 11 = k :=
  (BitVec.extractLsb'_append_extractLsb'_eq_extractLsb' rfl).trans BitVec.extractLsb'_eq_self

/-! ## The two instructions -/

/-- LHI (R141). -/
theorem exec_lhi_completes (ra : Reg) (imm : BitVec 21) (s : State) :
    CompletesWith (exec (.lhi ra imm) s) s ra (imm ++ 0#11) :=
  writeAndAdvance_completes_eq (lhiValue_eq_append imm)

/-- ORI (R206). -/
theorem exec_ori_completes (ra rb : Reg) (imm : BitVec 16) (s : State) :
    CompletesWith (exec (.ori ra rb imm) s) s ra (s.reg rb ||| sext32 imm) :=
  writeAndAdvance_completes s ra _

/-- What two instructions in a row both leave as it was. -/
theorem Frame.trans {s t u : State} {written : List Reg} (hst : Frame s t written) (htu : Frame t u written) :
    Frame s u written := by
  obtain ⟨hregs, ⟨hsr, hesr, hepc, hdsr, hdpc⟩, hmem, hstored, ⟨hsleep, hint, hmodule, hcommand, hcfg⟩⟩ := hst
  obtain ⟨hregs', ⟨hsr', hesr', hepc', hdsr', hdpc'⟩, hmem', hstored', ⟨hsleep', hint', hmodule', hcommand', hcfg'⟩⟩ := htu
  exact ⟨fun r hr => (hregs' r hr).trans (hregs r hr),
    ⟨hsr'.trans hsr, hesr'.trans hesr, hepc'.trans hepc, hdsr'.trans hdsr, hdpc'.trans hdpc⟩,
    fun a => (hmem' a).trans (hmem a), hstored'.trans hstored,
    ⟨hsleep'.trans hsleep, hint'.trans hint, hmodule'.trans hmodule, hcommand'.trans hcommand, hcfg'.trans hcfg⟩⟩

end Machine

end Sys2Proof

namespace Sys2Proof.Proofs

open Sys2Proof Sys2Proof.Machine

/-- Settles O1, from the decoding of LHI's box and what LHI does. -/
theorem lhiLoadsHighBits : Obligations.LhiLoadsHighBits := by
  unfold Obligations.LhiLoadsHighBits
  intro ra imm s
  exact ⟨decode_box21_lhi ra imm, exec_lhi_completes ra imm s⟩

/-- Settles O2: ORI reads back what LHI wrote, and the OR of the two halves is the constant. A write to R0 is discarded
twice. -/
theorem lhiOriLoadsConstant : Obligations.LhiOriLoadsConstant := by
  unfold Obligations.LhiOriLoadsConstant
  intro ra k s
  obtain ⟨t, hlhi, htreg, htpc, htframe⟩ := exec_lhi_completes ra (k.extractLsb' 11 21) s
  obtain ⟨u, hori, hureg, hupc, huframe⟩ := exec_ori_completes ra ra (0#5 ++ k.extractLsb' 0 11) t
  refine ⟨t, u, hlhi, hori, ?loaded, ?pc, htframe.trans huframe⟩
  case loaded =>
    by_cases hzero : ra = 0#5
    · rw [hureg, if_pos hzero, if_pos hzero]
    · rw [hureg, htreg, if_neg hzero, if_neg hzero, if_neg hzero, lhi_or_low11, high21_append_low11]
  case pc => rw [hupc, htpc, BitVec.add_assoc]; rfl

end Sys2Proof.Proofs
end

section
/-! The jumps (41_jump.md R146, R147) and where an instruction can go (R150). -/

namespace Sys2Proof

/-- A Format 6 box under J's operator is J of its two cells (R109, R112). -/
theorem decode_box21_j (ra : Reg) (imm : BitVec 21) : decode (Machine.box21 0b000101#6 ra imm) = .ok (.j ra imm) := by
  rw [decode, op1_box21]
  simp only [f25_box21, i21_box21]

/-- A box with a 10-bit last cell under JA's operators is JA of its three cells (R109, R113). -/
theorem decode_box10_ja (ra rb : Reg) (imm : BitVec 10) :
    decode (Machine.box10 0b000000#6 ra rb 0b000010#6 imm) = .ok (.ja ra rb imm) := by
  rw [decode, op1_box10]
  simp only [decodeImmediateGroup, op2_box10, f25_box10, f20_box10, i10_box10]

namespace Machine

/-! ## The two targets as numbers -/

/-- A word left shifted two bits is four times the word, modulo `2^32`. -/
theorem shiftLeft_two_eq_mul_four (k : Word) : k <<< 2 = k * 4#32 := BitVec.shiftLeft_eq_mul_twoPow k 2

/-- The scaled signed field is four times its integer value (R105, R107). -/
theorem sext32_shiftLeft_two {n : Nat} (imm : BitVec n) : sext32 imm <<< 2 = BitVec.ofInt 32 (4 * imm.toInt) := by
  calc sext32 imm <<< 2
    _ = sext32 imm * 4#32 := shiftLeft_two_eq_mul_four _
    _ = 4#32 * sext32 imm := BitVec.mul_comm _ _
    _ = BitVec.ofInt 32 (4 * imm.toInt) := (BitVec.ofInt_mul 4 imm.toInt).symm

/-- The scaled unsigned field is four times its natural number (R105). -/
theorem zext32_shiftLeft_two {n : Nat} (imm : BitVec n) : zext32 imm <<< 2 = BitVec.ofNat 32 (4 * imm.toNat) := by
  calc zext32 imm <<< 2
    _ = zext32 imm * 4#32 := shiftLeft_two_eq_mul_four _
    _ = 4#32 * BitVec.ofNat 32 imm.toNat := by rw [BitVec.mul_comm, BitVec.ofNat_toNat]; rfl
    _ = BitVec.ofNat 32 (4 * imm.toNat) := (BitVec.ofNat_mul 4 imm.toNat).symm

/-- J's target: the following address plus four times the signed field, modulo `2^32` (R146). -/
theorem jumpTarget_eq_ofInt (pc : Word) (imm : BitVec 21) :
    jumpTarget pc imm = BitVec.ofInt 32 ((pc.toNat : Int) + 4 + 4 * imm.toInt) := by
  rw [jumpTarget, sext32_shiftLeft_two, BitVec.ofInt_add, BitVec.ofInt_add, BitVec.ofInt_natCast, BitVec.ofNat_toNat,
    BitVec.setWidth_eq]
  rfl

/-- JA's target: the base register OR four times the unsigned field (R147). -/
theorem absoluteTarget_eq_or_ofNat (base : Word) (imm : BitVec 10) :
    absoluteTarget base imm = base ||| BitVec.ofNat 32 (4 * imm.toNat) := by
  rw [absoluteTarget, zext32_shiftLeft_two]

/-! ## Link and jump -/

/-- A write to one register and a jump leave everything else as it was. -/
theorem Frame.setReg_jump (s : State) (r : Reg) (v target : Word) : Frame s ((s.setReg r v).jump target) [r] := by
  refine ⟨fun q hq => ?otherRegs, by simp [SameControl], fun a => by simp, by simp, by simp [SameHidden]⟩
  case otherRegs => rw [State.reg_jump, State.reg_setReg_ne s v (List.ne_of_not_mem_cons hq)]

/-- J (R146). -/
theorem exec_j (ra : Reg) (imm : BitVec 21) (s : State) :
    exec (.j ra imm) s = .next ((s.setReg ra (s.pc + 4#32)).jump (jumpTarget s.pc imm)) := rfl

/-- JA (R147): the base is read before the link is written. -/
theorem exec_ja (ra rb : Reg) (imm : BitVec 10) (s : State) :
    exec (.ja ra rb imm) s = .next ((s.setReg ra (s.pc + 4#32)).jump (absoluteTarget (s.reg rb) imm)) := rfl

/-! ## The alignment of relative targets (R150) -/

/-- The mask of the low two bits keeps exactly them. -/
theorem and_three_eq_setWidth (x : Word) : x &&& 3#32 = (x.setWidth 2).setWidth 32 := by
  apply BitVec.eq_of_toNat_eq
  have hlow : x.toNat % 2 ^ 2 < 2 ^ 32 := by omega
  rw [BitVec.toNat_and, BitVec.toNat_setWidth, BitVec.toNat_setWidth, Nat.mod_eq_of_lt hlow]
  exact Nat.and_two_pow_sub_one_eq_mod x.toNat 2

/-- A multiple of four leaves the low two bits of a sum alone, carries out of bit 31 included. -/
theorem add_shiftLeft_two_and_three (x k : Word) : (x + k <<< 2) &&& 3#32 = x &&& 3#32 := by
  have hscaled : (k <<< 2).setWidth 2 = 0#2 := by
    rw [BitVec.setWidth_shiftLeft_of_le (by decide), BitVec.shiftLeft_eq_zero (by decide)]
  rw [and_three_eq_setWidth, and_three_eq_setWidth, BitVec.setWidth_add _ _ (by decide), hscaled, BitVec.add_zero]

/-- The following instruction is as aligned as this one. -/
theorem add_four_and_three (x : Word) : (x + 4#32) &&& 3#32 = x &&& 3#32 := add_shiftLeft_two_and_three x 1#32

/-- Where an instruction without exception goes, but for JA, is as aligned as where it stood. -/
theorem PcMoves.keeps_alignment {i : Instr} {s t : State} (hmoves : PcMoves i s t)
    (hja : ∀ ra rb imm, i ≠ .ja ra rb imm) : t.pc &&& 3#32 = s.pc &&& 3#32 := by
  obtain hnext | ⟨k, htarget⟩ | ⟨ra, rb, imm, rfl⟩ := hmoves
  · rw [hnext, add_four_and_three]
  · rw [htarget, add_shiftLeft_two_and_three, add_four_and_three]
  · exact absurd rfl (hja ra rb imm)

/-- WCR writes no pc: the next instruction follows it. -/
theorem State.writeCr_advance_pc {s u : State} {cr : BitVec 5} {v : Word} (h : s.writeCr cr v = some u) :
    u.advance.pc = s.pc + 4#32 := by
  obtain ⟨-, hpc, -⟩ := State.writeCr_some h
  rw [State.advance_pc, hpc]

/-- An exception entry goes to the word of its vector entry and saves SR in ESR or DSR (R346). -/
theorem Entered.pc_and_saved_sr {s t : State} (h : Entered s t) :
    ∃ e : Exc, t.pc = s.wordAt (s.vectorBase e + e.offset) ∧ (t.esr = s.readSr ∨ t.dsr = s.readSr) := by
  obtain ⟨e, -, hsaved, -, -, hpc, -⟩ := h.spec
  exact ⟨e, hpc, hsaved.imp And.left And.left⟩

end Machine

end Sys2Proof

namespace Sys2Proof.Proofs

open Sys2Proof Sys2Proof.Machine

/-- Settles O3, from the decoding of J's box, its target as a number and the frame of a link and a jump. -/
theorem jumpRelative : Obligations.JumpRelative := by
  unfold Obligations.JumpRelative
  intro ra imm s
  refine ⟨decode_box21_j ra imm, _, exec_j ra imm s, ?link, ?target, Frame.setReg_jump s ra _ _⟩
  case link => rw [State.reg_jump, State.reg_setReg_same]
  case target => rw [State.jump_pc, jumpTarget_eq_ofInt]

/-- Settles O4. That the base is the old `rb`, also where `ra` is `rb`, is `exec_ja`. -/
theorem jumpAbsolute : Obligations.JumpAbsolute := by
  unfold Obligations.JumpAbsolute
  intro ra rb imm s
  refine ⟨decode_box10_ja ra rb imm, _, exec_ja ra rb imm s, ?link, ?target, Frame.setReg_jump s ra _ _⟩
  case link => rw [State.reg_jump, State.reg_setReg_same]
  case target => rw [State.jump_pc, absoluteTarget_eq_or_ofNat]

/-- Settles O7, by cases on all that an instruction can do: an exception entry is the second alternative, RTE is left out,
and the others go on or, but for JA, to a scaled relative target. -/
theorem targetsKeepPcAlignment : Obligations.TargetsKeepPcAlignment := by
  unfold Obligations.TargetsKeepPcAlignment
  intro i s t hja hrte hexec
  obtain hentered | ⟨hi, -⟩ | ⟨ra, cr, u, -, -, hwrite, rfl⟩ | ⟨-, -, -, rfl⟩ | hplain := exec_cases hexec
  · exact .inr hentered.pc_and_saved_sr
  · exact absurd hi hrte
  · exact .inl (by rw [State.writeCr_advance_pc hwrite, add_four_and_three])
  · exact .inl (add_four_and_three s.pc)
  · exact .inl (hplain.pc.keeps_alignment hja)

end Sys2Proof.Proofs
end

section
/-! The branches (42_branch.md R158 to R163, R165 to R172): the two groups of the decoder, the six conditions as relations
between numbers, and the 5-bit immediate as the number it stands for. What a branch does once its condition is known is
`branchIf_branches`. -/

namespace Sys2Proof

/-! ## The two groups of branches in the decoder (R115) -/

/-- OP1 = `000110`: OP2 alone says which branch `i` on two registers it is; the cells are its operands. -/
theorem decode_box10_branch {o2 : BitVec 6} {i : Reg → Reg → BitVec 10 → Instr}
    (hrow : ∀ w, op2 w = o2 → decodeBranchGroup w = .ok (i (f20 w) (f25 w) (i10 w))) (ra rb : Reg) (imm : BitVec 10) :
    decode (Machine.box10 0b000110#6 ra rb o2 imm) = .ok (i rb ra imm) := by
  rw [decode, op1_box10]
  simp only [hrow _ (op2_box10 ..), f20_box10, f25_box10, i10_box10]

/-- OP1 = `000100`: OP2 alone says which branch `i` on a 5-bit immediate it is; the cells are its operands. -/
theorem decode_box10_branchImmediate {o2 : BitVec 6} {i : Reg → BitVec 5 → BitVec 10 → Instr}
    (hrow : ∀ w, op2 w = o2 → decodeBranchImmediateGroup w = .ok (i (f20 w) (f25 w) (i10 w))) (imm5 : BitVec 5)
    (rb : Reg) (imm : BitVec 10) :
    decode (Machine.box10 0b000100#6 imm5 rb o2 imm) = .ok (i rb imm5 imm) := by
  rw [decode, op1_box10]
  simp only [hrow _ (op2_box10 ..), f20_box10, f25_box10, i10_box10]

namespace Machine

/-! ## The conditions (R8, R155) -/

section
variable (x y : Word)

theorem condEq_iff : condEq x y = true ↔ x = y := beq_iff_eq

theorem condNe_iff : condNe x y = true ↔ x ≠ y := bne_iff_ne

theorem condLt_iff : condLt x y = true ↔ x.toInt < y.toInt := decide_eq_true_iff

theorem condGe_iff : condGe x y = true ↔ y.toInt ≤ x.toInt := decide_eq_true_iff

theorem condLtu_iff : condLtu x y = true ↔ x.toNat < y.toNat := decide_eq_true_iff

theorem condGeu_iff : condGeu x y = true ↔ y.toNat ≤ x.toNat := decide_eq_true_iff

end

/-! ## The extended immediate as a number (R9) -/

theorem toInt_sext32 {n : Nat} (imm : BitVec n) (hn : n ≤ 32) : (sext32 imm).toInt = imm.toInt :=
  BitVec.toInt_signExtend_of_le hn

theorem toNat_zext32 {n : Nat} (imm : BitVec n) (hn : n ≤ 32) : (zext32 imm).toNat = imm.toNat :=
  BitVec.toNat_setWidth_of_le hn

/-- Equality with a sign-extended field is equality of the signed numbers: the extension loses nothing. -/
theorem eq_sext32_iff {n : Nat} (x : Word) (imm : BitVec n) (hn : n ≤ 32) : x = sext32 imm ↔ x.toInt = imm.toInt := by
  rw [← BitVec.toInt_inj, toInt_sext32 imm hn]

/-- Equality with a zero-extended field is equality of the unsigned numbers: the extension loses nothing. -/
theorem eq_zext32_iff {n : Nat} (x : Word) (imm : BitVec n) (hn : n ≤ 32) : x = zext32 imm ↔ x.toNat = imm.toNat := by
  rw [← BitVec.toNat_inj, toNat_zext32 imm hn]

end Machine

end Sys2Proof

namespace Sys2Proof.Proofs

open Sys2Proof Sys2Proof.Machine

/-- Settles O5: each branch is `branchIf` of one condition, and the condition is the relation of the statement. -/
theorem branchesOnRegisters : Obligations.BranchesOnRegisters := by
  unfold Obligations.BranchesOnRegisters
  intro rb ra imm s
  refine ⟨⟨decode_box10_branch ?beq ra rb imm, branchIf_branches (condEq_iff _ _)⟩,
    ⟨decode_box10_branch ?bne ra rb imm, branchIf_branches (condNe_iff _ _)⟩,
    ⟨decode_box10_branch ?blt ra rb imm, branchIf_branches (condLt_iff _ _)⟩,
    ⟨decode_box10_branch ?bge ra rb imm, branchIf_branches (condGe_iff _ _)⟩,
    ⟨decode_box10_branch ?bltu ra rb imm, branchIf_branches (condLtu_iff _ _)⟩,
    ⟨decode_box10_branch ?bgeu ra rb imm, branchIf_branches (condGeu_iff _ _)⟩⟩
  all_goals
    intro w hop2
    simp only [decodeBranchGroup, hop2]

/-- Settles O6: as for two registers, with the extended field on the right, which is the number the field stands for. -/
theorem branchesOnImmediate : Obligations.BranchesOnImmediate := by
  unfold Obligations.BranchesOnImmediate
  intro rb imm5 imm s
  have hfits : 5 ≤ 32 := by decide
  have hsigned : (sext32 imm5).toInt = imm5.toInt := toInt_sext32 imm5 hfits
  have hunsigned : (zext32 imm5).toNat = imm5.toNat := toNat_zext32 imm5 hfits
  refine ⟨⟨decode_box10_branchImmediate ?beqi imm5 rb imm, branchIf_branches ?eq⟩,
    ⟨decode_box10_branchImmediate ?bnei imm5 rb imm, branchIf_branches ?ne⟩,
    ⟨decode_box10_branchImmediate ?blti imm5 rb imm, branchIf_branches ?lt⟩,
    ⟨decode_box10_branchImmediate ?bgei imm5 rb imm, branchIf_branches ?ge⟩,
    ⟨decode_box10_branchImmediate ?bequi imm5 rb imm, branchIf_branches ?equ⟩,
    ⟨decode_box10_branchImmediate ?bneui imm5 rb imm, branchIf_branches ?neu⟩,
    ⟨decode_box10_branchImmediate ?bltui imm5 rb imm, branchIf_branches ?ltu⟩,
    ⟨decode_box10_branchImmediate ?bgeui imm5 rb imm, branchIf_branches ?geu⟩⟩
  case eq => rw [condEq_iff, eq_sext32_iff _ _ hfits]
  case ne => rw [condNe_iff, ne_eq, eq_sext32_iff _ _ hfits]
  case lt => rw [condLt_iff, hsigned]
  case ge => rw [condGe_iff, hsigned]
  case equ => rw [condEq_iff, eq_zext32_iff _ _ hfits]
  case neu => rw [condNe_iff, ne_eq, eq_zext32_iff _ _ hfits]
  case ltu => rw [condLtu_iff, hunsigned]
  case geu => rw [condGeu_iff, hunsigned]
  all_goals
    intro w hop2
    simp only [decodeBranchImmediateGroup, hop2]

end Sys2Proof.Proofs
end

section
/-! Arithmetic and comparison (43_arithmetic_compare.md R181 to R183, R187 to R192): the three-register group of the decoder,
sums and differences as numbers modulo 2^32, a comparison as the word it gives, and SLT followed by a conditional move
(47_misc.md R270). -/

namespace Sys2Proof

/-- OP1 = `000010`: OP2 alone says which instruction `i` on three registers it is; the cells are its operands, and bits 9:5
are free (R114). -/
theorem decode_box_register {o2 : BitVec 6} {i : Reg → Reg → Reg → Instr}
    (hrow : ∀ w, op2 w = o2 → decodeRegisterGroup w = .ok (i (f4 w) (f20 w) (f25 w))) (ra rb rc : Reg) (free : BitVec 5) :
    decode (Machine.box 0b000010#6 rc rb o2 free ra) = .ok (i ra rb rc) := by
  rw [decode, op1_box]
  simp only [hrow _ (op2_box ..), f4_box, f20_box, f25_box]

/-- A box with a 10-bit last cell under ADDI's operators is ADDI of its three cells (R109, R113). -/
theorem decode_box10_addi (ra rb : Reg) (imm : BitVec 10) :
    decode (Machine.box10 0b000000#6 ra rb 0b000000#6 imm) = .ok (.addi ra rb imm) := by
  rw [decode, op1_box10]
  simp only [decodeImmediateGroup, op2_box10, f25_box10, f20_box10, i10_box10]

namespace Machine

/-! ## Sums and differences as numbers (R181 to R183) -/

/-- The sum with a sign-extended field is the sum of the two signed numbers, modulo `2^32` (R182). -/
theorem add_sext32_eq_ofInt {n : Nat} (x : Word) (imm : BitVec n) :
    x + sext32 imm = BitVec.ofInt 32 (x.toInt + imm.toInt) := by
  rw [BitVec.ofInt_add, BitVec.ofInt_toInt]
  rfl

/-- The difference is that of the two signed numbers, modulo `2^32` (R183). -/
theorem sub_eq_ofInt (x y : Word) : x - y = BitVec.ofInt 32 (x.toInt - y.toInt) := by
  rw [BitVec.sub_eq_add_neg, Int.sub_eq_add_neg, BitVec.ofInt_add, BitVec.ofInt_neg, BitVec.ofInt_toInt, BitVec.ofInt_toInt]

/-! ## The word of a comparison (R186) -/

theorem boolWord_eq_ite {c : Bool} {p : Prop} [Decidable p] (h : c = true ↔ p) :
    boolWord c = if p then 1#32 else 0#32 := by
  unfold boolWord
  exact if_congr h rfl rfl

/-- A comparison's word is written as 1 or 0 by the relation that its condition decides (R187 to R192). -/
theorem writeAndAdvance_boolWord_completes {s : State} {ra : Reg} {c : Bool} {p : Prop} [Decidable p] (h : c = true ↔ p) :
    CompletesWith (writeAndAdvance s ra (boolWord c)) s ra (if p then 1#32 else 0#32) :=
  writeAndAdvance_completes_eq (boolWord_eq_ite h)

theorem boolWord_eq_zero_iff (c : Bool) : boolWord c = 0#32 ↔ c = false := by
  cases c <;> decide

/-! ## What two instructions in a row leave unchanged -/

/-- A frame that excepts fewer registers says more. -/
theorem Frame.mono {s t : State} {fewer more : List Reg} (h : Frame s t fewer) (hsub : fewer ⊆ more) : Frame s t more := by
  obtain ⟨hregs, hrest⟩ := h
  exact ⟨fun r hr => hregs r (fun hmem => hr (hsub hmem)), hrest⟩

theorem Frame.reg_ne {s t : State} {r q : Reg} (h : Frame s t [r]) (hne : q ≠ r) : t.reg q = s.reg q := by
  obtain ⟨hregs, -⟩ := h
  exact hregs q (List.mem_singleton.not.mpr hne)

/-! ## SLT and the conditional moves (R189, R271, R275) -/

/-- SLT (R189). -/
theorem exec_slt_completes (ra rb rc : Reg) (s : State) :
    CompletesWith (exec (.slt ra rb rc) s) s ra (boolWord (condLt (s.reg rb) (s.reg rc))) :=
  writeAndAdvance_completes s ra _

/-- MVZ (R271), the case that moves nothing read as a write of the old value. -/
theorem exec_mvz_completes (ra rb rc : Reg) (s : State) :
    CompletesWith (exec (.mvz ra rb rc) s) s ra (if s.reg rb = 0#32 then s.reg rc else s.reg ra) :=
  writeAndAdvance_completes s ra _

/-- MVNZ (R275), the case that moves nothing read as a write of the old value. -/
theorem exec_mvnz_completes (ra rb rc : Reg) (s : State) :
    CompletesWith (exec (.mvnz ra rb rc) s) s ra (if s.reg rb ≠ 0#32 then s.reg rc else s.reg ra) :=
  writeAndAdvance_completes s ra _

section
variable {rt ra rb : Reg}

/-- SLT into a scratch register, then a move of `rb` to `ra` on a condition on that register: `ra` holds one of the two
compared values as the comparison says. The scratch register must not be R0, or the comparison is lost, nor `ra` or `rb`, or
a compared value is. -/
theorem slt_then_move {move : Instr} {moves : Word → Prop} [DecidablePred moves]
    (hmove : ∀ t : State, CompletesWith (exec move t) t ra (if moves (t.reg rt) then t.reg rb else t.reg ra))
    (s : State) (hta : rt ≠ ra) (htb : rt ≠ rb) (ht : rt ≠ 0#5) (ha : ra ≠ 0#5) :
    ∃ t u : State, exec (.slt rt ra rb) s = .next t ∧ exec move t = .next u ∧
      u.reg ra = (if moves (boolWord (condLt (s.reg ra) (s.reg rb))) then s.reg rb else s.reg ra) ∧
      u.pc = s.pc + 8#32 ∧ Frame s u [rt, ra] := by
  obtain ⟨t, hslt, htreg, htpc, htframe⟩ := exec_slt_completes rt ra rb s
  obtain ⟨u, hexec, hureg, hupc, huframe⟩ := hmove t
  refine ⟨t, u, hslt, hexec, ?chosen, ?pc, (htframe.mono (by simp)).trans (huframe.mono (by simp))⟩
  case chosen =>
    rw [hureg, if_neg ha, htreg, if_neg ht, htframe.reg_ne hta.symm, htframe.reg_ne htb.symm]
  case pc => rw [hupc, htpc, BitVec.add_assoc]; rfl

end

/-! ## The value that is left (R270) -/

section
variable (x y : Word)

theorem boolWord_condLt_eq_zero_iff : boolWord (condLt x y) = 0#32 ↔ y.toInt ≤ x.toInt := by
  rw [boolWord_eq_zero_iff, ← Bool.not_eq_true, condLt_iff, not_lt]

/-- The value moved where SLT gives 0 is the signed minimum. -/
theorem toInt_move_of_slt_zero :
    (if boolWord (condLt x y) = 0#32 then y else x).toInt = min x.toInt y.toInt := by
  simp only [boolWord_condLt_eq_zero_iff]
  rw [apply_ite BitVec.toInt, min_comm, min_def]

/-- The value moved where SLT gives 1 is the signed maximum. -/
theorem toInt_move_of_slt_nonzero :
    (if boolWord (condLt x y) ≠ 0#32 then y else x).toInt = max x.toInt y.toInt := by
  simp only [ne_eq, ite_not, boolWord_condLt_eq_zero_iff]
  rw [apply_ite BitVec.toInt, max_comm, max_def]

end

end Machine

end Sys2Proof

namespace Sys2Proof.Proofs

open Sys2Proof Sys2Proof.Machine

/-- Settles O8: each writes its sum or difference, which is that of the two numbers modulo `2^32`. -/
theorem addAndSubtract : Obligations.AddAndSubtract := by
  unfold Obligations.AddAndSubtract
  intro ra rb rc free imm s
  refine ⟨⟨decode_box_register ?add ra rb rc free, writeAndAdvance_completes_eq (BitVec.add_def ..)⟩,
    ⟨decode_box10_addi ra rb imm, writeAndAdvance_completes_eq (add_sext32_eq_ofInt _ imm)⟩,
    ⟨decode_box_register ?sub ra rb rc free, writeAndAdvance_completes_eq (sub_eq_ofInt _ _)⟩⟩
  all_goals
    intro w hop2
    simp only [decodeRegisterGroup, hop2]

/-- Settles O11: each writes the word of one condition, and the condition is the relation of the statement. -/
theorem setOnComparison : Obligations.SetOnComparison := by
  unfold Obligations.SetOnComparison
  intro ra rb rc free s
  refine ⟨⟨decode_box_register ?seq ra rb rc free, writeAndAdvance_boolWord_completes (condEq_iff _ _)⟩,
    ⟨decode_box_register ?sne ra rb rc free, writeAndAdvance_boolWord_completes (condNe_iff _ _)⟩,
    ⟨decode_box_register ?slt ra rb rc free, writeAndAdvance_boolWord_completes (condLt_iff _ _)⟩,
    ⟨decode_box_register ?sge ra rb rc free, writeAndAdvance_boolWord_completes (condGe_iff _ _)⟩,
    ⟨decode_box_register ?sltu ra rb rc free, writeAndAdvance_boolWord_completes (condLtu_iff _ _)⟩,
    ⟨decode_box_register ?sgeu ra rb rc free, writeAndAdvance_boolWord_completes (condGeu_iff _ _)⟩⟩
  all_goals
    intro w hop2
    simp only [decodeRegisterGroup, hop2]

/-- Settles O23: MVZ moves `rb` where SLT gave 0, MVNZ where it gave 1, and the value left is the minimum or the maximum. -/
theorem minimumAndMaximum : Obligations.MinimumAndMaximum := by
  unfold Obligations.MinimumAndMaximum
  intro rt ra rb s hta htb ht ha
  refine ⟨?minimum, ?maximum⟩
  case minimum =>
    obtain ⟨t, u, hslt, hmvz, hvalue, hpc, hframe⟩ :=
      slt_then_move (moves := (· = 0#32)) (exec_mvz_completes ra rt rb) s hta htb ht ha
    exact ⟨t, u, hslt, hmvz, by rw [hvalue, toInt_move_of_slt_zero], hpc, hframe⟩
  case maximum =>
    obtain ⟨t, u, hslt, hmvnz, hvalue, hpc, hframe⟩ :=
      slt_then_move (moves := (· ≠ 0#32)) (exec_mvnz_completes ra rt rb) s hta htb ht ha
    exact ⟨t, u, hslt, hmvnz, by rw [hvalue, toInt_move_of_slt_nonzero], hpc, hframe⟩

end Sys2Proof.Proofs
end

section
/-! Bitwise operations on registers (44_bitwise.md R201 to R204): the library says what each bit of AND, OR and XOR is; here
stands ANDN's, and each instruction of the group is a row of `decode_box_register`. -/

namespace Sys2Proof.Machine

open Sys2Proof

/-- A bit of ANDN's result: the complement is of the second operand alone (R204). Beyond bit 31 a word has no set bit and its
complement none either, but there the first operand's bit is clear already. -/
theorem getLsbD_and_not (x y : Word) (k : Nat) : (x &&& ~~~y).getLsbD k = (x.getLsbD k && !y.getLsbD k) := by
  rw [BitVec.getLsbD_and, BitVec.getLsbD_not]
  by_cases hk : k < 32
  · rw [decide_eq_true hk, Bool.true_and]
  · rw [BitVec.getLsbD_of_ge x k (Nat.le_of_not_lt hk), Bool.false_and, Bool.false_and]

end Sys2Proof.Machine

namespace Sys2Proof.Proofs

open Sys2Proof Sys2Proof.Machine

/-- Settles O12: each writes the word of its operator, whose bits the operator's bit lemma gives. -/
theorem bitwiseRegisters : Obligations.BitwiseRegisters := by
  unfold Obligations.BitwiseRegisters
  intro ra rb rc free s
  refine ⟨⟨decode_box_register ?and ra rb rc free, _, fun _ => BitVec.getLsbD_and, writeAndAdvance_completes s ra _⟩,
    ⟨decode_box_register ?or ra rb rc free, _, fun _ => BitVec.getLsbD_or, writeAndAdvance_completes s ra _⟩,
    ⟨decode_box_register ?xor ra rb rc free, _, fun _ => BitVec.getLsbD_xor, writeAndAdvance_completes s ra _⟩,
    ⟨decode_box_register ?andn ra rb rc free, _, getLsbD_and_not _ _, writeAndAdvance_completes s ra _⟩⟩
  all_goals
    intro w hop2
    simp only [decodeRegisterGroup, hop2]

end Sys2Proof.Proofs
end

section
/-! Shifts (45_shift.md R216 to R222): each shift as a product or a quotient by a power of two, the amount in a register as a
remainder, and the three rows of the immediate group whose bits 9:5 must be 0. -/

namespace Sys2Proof

/-- OP1 = `000000`, bits 9:5 zero: where OP2 asks for no more than those zeros, it alone says which instruction `i` on a 5-bit
immediate it is; the cells are its operands (R113). -/
theorem decode_box_shiftImmediate {o2 : BitVec 6} {i : Reg → Reg → BitVec 5 → Instr}
    (hrow : ∀ w, op2 w = o2 → decodeImmediateGroup w = ifZero (f9 w) (i (f25 w) (f20 w) (f4 w))) (ra rb : Reg)
    (imm : BitVec 5) : decode (Machine.box 0b000000#6 ra rb o2 0#5 imm) = .ok (i ra rb imm) := by
  rw [decode, op1_box]
  simp only [hrow _ (op2_box ..), f9_box, f4_box, f20_box, f25_box]
  exact if_pos rfl

namespace Machine

/-- The low 5 bits of a register are its remainder by 32 (R216). -/
theorem shiftAmount_eq_mod (v : Word) : shiftAmount v = v.toNat % 32 := by
  rw [shiftAmount, BitVec.toNat_and]
  exact Nat.and_two_pow_sub_one_eq_mod v.toNat 5

section
variable (v : Word) (n : Nat)

/-- A left shift multiplies, modulo `2^32` (R217, R220). -/
theorem shiftLeft_eq_ofNat : shiftLeft v n = BitVec.ofNat 32 (v.toNat * 2 ^ n) :=
  congrArg (BitVec.ofNat 32) (Nat.shiftLeft_eq v.toNat n)

/-- A logical right shift divides the unsigned number (R218, R221). -/
theorem shiftRightLogical_eq_ofNat : shiftRightLogical v n = BitVec.ofNat 32 (v.toNat / 2 ^ n) := by
  rw [← Nat.shiftRight_eq_div_pow, ← BitVec.toNat_ushiftRight, BitVec.ofNat_toNat, BitVec.setWidth_eq]
  rfl

/-- An arithmetic right shift divides the signed number, rounding down (R219, R222). -/
theorem shiftRightArithmetic_eq_ofInt : shiftRightArithmetic v n = BitVec.ofInt 32 (v.toInt / 2 ^ n) := by
  rw [shiftRightArithmetic, BitVec.sshiftRight, Int.shiftRight_eq_div_pow, Nat.cast_pow, Nat.cast_ofNat]

end

end Machine

end Sys2Proof

namespace Sys2Proof.Proofs

open Sys2Proof Sys2Proof.Machine

/-- Settles O14: the shifts as numbers, with the amount read from the register as its remainder by 32. -/
theorem shiftsByRegister : Obligations.ShiftsByRegister := by
  unfold Obligations.ShiftsByRegister
  intro ra rb rc free s
  rw [← shiftAmount_eq_mod]
  refine ⟨⟨decode_box_register ?sll ra rb rc free, writeAndAdvance_completes_eq (shiftLeft_eq_ofNat _ _)⟩,
    ⟨decode_box_register ?slr ra rb rc free, writeAndAdvance_completes_eq (shiftRightLogical_eq_ofNat _ _)⟩,
    ⟨decode_box_register ?sar ra rb rc free, writeAndAdvance_completes_eq (shiftRightArithmetic_eq_ofInt _ _)⟩⟩
  all_goals
    intro w hop2
    simp only [decodeRegisterGroup, hop2]

/-- Settles O15: the same shifts, with the field as the amount. -/
theorem shiftsByImmediate : Obligations.ShiftsByImmediate := by
  unfold Obligations.ShiftsByImmediate
  intro ra rb imm s
  refine ⟨⟨decode_box_shiftImmediate ?slli ra rb imm, writeAndAdvance_completes_eq (shiftLeft_eq_ofNat _ _)⟩,
    ⟨decode_box_shiftImmediate ?slri ra rb imm, writeAndAdvance_completes_eq (shiftRightLogical_eq_ofNat _ _)⟩,
    ⟨decode_box_shiftImmediate ?sari ra rb imm, writeAndAdvance_completes_eq (shiftRightArithmetic_eq_ofInt _ _)⟩⟩
  all_goals
    intro w hop2
    simp only [decodeImmediateGroup, hop2]

end Sys2Proof.Proofs
end

section
/-! Loads and stores (46_load_store.md R236 to R256): the two groups of the decoder, and the two extensions as numbers. What an
access does where it can be made, and what it does where it cannot, is said by `loadInto_rule`, `storeTo_byte_rule`,
`storeTo_half_rule` and `storeTo_word_rule`: an instruction only chooses the address, the size and the datum. -/

namespace Sys2Proof

/-! ## The two groups of loads and stores in the decoder (R116) -/

/-- OP1 = `001010`: OP2 alone says which load or store `i` on three registers it is; the cells are its operands, and bits 9:5
are free. -/
theorem decode_box_index {o2 : BitVec 6} {i : Reg → Reg → Reg → Instr}
    (hrow : ∀ w, op2 w = o2 → decodeIndexGroup w = .ok (i (f4 w) (f20 w) (f25 w))) (ra rb rc : Reg) (free : BitVec 5) :
    decode (Machine.box 0b001010#6 rc rb o2 free ra) = .ok (i ra rb rc) := by
  rw [decode, op1_box]
  simp only [hrow _ (op2_box ..), f4_box, f20_box, f25_box]

/-- OP1 = `001000`: OP2 alone says which load or store `i` with a displacement it is; the cells are its operands. -/
theorem decode_box10_displacement {o2 : BitVec 6} {i : Reg → Reg → BitVec 10 → Instr}
    (hrow : ∀ w, op2 w = o2 → decodeDisplacementGroup w = .ok (i (f25 w) (f20 w) (i10 w))) (ra rb : Reg) (imm : BitVec 10) :
    decode (Machine.box10 0b001000#6 ra rb o2 imm) = .ok (i ra rb imm) := by
  rw [decode, op1_box10]
  simp only [hrow _ (op2_box10 ..), f25_box10, f20_box10, i10_box10]

namespace Machine

/-! ## The datum of a load as a number (R9, R233) -/

/-- The sign extension is the word of the signed number. -/
theorem sext32_eq_ofInt {n : Nat} (v : BitVec n) : sext32 v = BitVec.ofInt 32 v.toInt := rfl

/-- The zero extension is the word of the unsigned number. -/
theorem zext32_eq_ofNat {n : Nat} (v : BitVec n) : zext32 v = BitVec.ofNat 32 v.toNat := (BitVec.ofNat_toNat 32 v).symm

end Machine

end Sys2Proof

namespace Sys2Proof.Proofs

open Sys2Proof Sys2Proof.Machine

/-- Settles O18: each is the load of one extension at the address its operands add up to. -/
theorem loadsIndexed : Obligations.LoadsIndexed := by
  unfold Obligations.LoadsIndexed
  intro ra rb rc free s
  refine ⟨⟨decode_box_index ?lr8 ra rb rc free, loadInto_rule rfl (sext32_eq_ofInt _)⟩,
    ⟨decode_box_index ?lr8u ra rb rc free, loadInto_rule rfl (zext32_eq_ofNat _)⟩,
    ⟨decode_box_index ?lr16 ra rb rc free, loadInto_rule rfl (sext32_eq_ofInt _)⟩,
    ⟨decode_box_index ?lr16u ra rb rc free, loadInto_rule rfl (zext32_eq_ofNat _)⟩,
    ⟨decode_box_index ?lr32 ra rb rc free, loadInto_rule rfl rfl⟩,
    ⟨decode_box_index ?lx16 ra rb rc free, loadInto_rule rfl (sext32_eq_ofInt _)⟩,
    ⟨decode_box_index ?lx16u ra rb rc free, loadInto_rule rfl (zext32_eq_ofNat _)⟩,
    ⟨decode_box_index ?lx32 ra rb rc free, loadInto_rule rfl rfl⟩⟩
  all_goals
    intro w hop2
    simp only [decodeIndexGroup, hop2]

/-- Settles O19: the same loads, at the base plus the scaled field. -/
theorem loadsDisplacement : Obligations.LoadsDisplacement := by
  unfold Obligations.LoadsDisplacement
  intro ra rb imm s
  refine ⟨⟨decode_box10_displacement ?ld8 ra rb imm, loadInto_rule rfl (sext32_eq_ofInt _)⟩,
    ⟨decode_box10_displacement ?ld8u ra rb imm, loadInto_rule rfl (zext32_eq_ofNat _)⟩,
    ⟨decode_box10_displacement ?ld16 ra rb imm, loadInto_rule rfl (sext32_eq_ofInt _)⟩,
    ⟨decode_box10_displacement ?ld16u ra rb imm, loadInto_rule rfl (zext32_eq_ofNat _)⟩,
    ⟨decode_box10_displacement ?ld32 ra rb imm, loadInto_rule rfl rfl⟩⟩
  all_goals
    intro w hop2
    simp only [decodeDisplacementGroup, hop2]

/-- Settles O20: each is the store of one width at the address its operands add up to. The datum of a byte or a halfword store
is the low slice of the register. -/
theorem storesIndexed : Obligations.StoresIndexed := by
  unfold Obligations.StoresIndexed
  intro ra rb rc free s
  refine ⟨⟨decode_box_index ?sr8 ra rb rc free, storeTo_byte_rule rfl (BitVec.setWidth_eq_extractLsb' (by decide))⟩,
    ⟨decode_box_index ?sr16 ra rb rc free, storeTo_half_rule rfl (BitVec.setWidth_eq_extractLsb' (by decide))⟩,
    ⟨decode_box_index ?sr32 ra rb rc free, storeTo_word_rule rfl rfl⟩,
    ⟨decode_box_index ?sx16 ra rb rc free, storeTo_half_rule rfl (BitVec.setWidth_eq_extractLsb' (by decide))⟩,
    ⟨decode_box_index ?sx32 ra rb rc free, storeTo_word_rule rfl rfl⟩⟩
  all_goals
    intro w hop2
    simp only [decodeIndexGroup, hop2]

/-- Settles O21: the same stores, at the base plus the scaled field. -/
theorem storesDisplacement : Obligations.StoresDisplacement := by
  unfold Obligations.StoresDisplacement
  intro ra rb imm s
  refine ⟨⟨decode_box10_displacement ?sd8 ra rb imm, storeTo_byte_rule rfl (BitVec.setWidth_eq_extractLsb' (by decide))⟩,
    ⟨decode_box10_displacement ?sd16 ra rb imm, storeTo_half_rule rfl (BitVec.setWidth_eq_extractLsb' (by decide))⟩,
    ⟨decode_box10_displacement ?sd32 ra rb imm, storeTo_word_rule rfl rfl⟩⟩
  all_goals
    intro w hop2
    simp only [decodeDisplacementGroup, hop2]

end Sys2Proof.Proofs
end

section
/-! Miscellaneous instructions (47_misc.md R271 to R275): a move that is not made, the run of sign bits, the bytes in the
opposite order, and SWAP's two accesses to one word. -/

namespace Sys2Proof

/-- A box with a 10-bit last cell under CSB's operators is CSB of its two register cells; the last cell is free (R109, R113). -/
theorem decode_box10_csb (ra rb : Reg) (free : BitVec 10) :
    decode (Machine.box10 0b000000#6 ra rb 0b010100#6 free) = .ok (.csb ra rb) := by
  rw [decode, op1_box10]
  simp only [decodeImmediateGroup, op2_box10, f25_box10, f20_box10]

/-- A box with a 10-bit last cell under BREV's operators is BREV of its two register cells; the last cell is free (R109,
R113). -/
theorem decode_box10_brev (ra rb : Reg) (free : BitVec 10) :
    decode (Machine.box10 0b000000#6 ra rb 0b011000#6 free) = .ok (.brev ra rb) := by
  rw [decode, op1_box10]
  simp only [decodeImmediateGroup, op2_box10, f25_box10, f20_box10]

namespace Machine

/-! ## A register written with its own value (R271, R275) -/

/-- What a register reads after a write of its old value is its old value, R0 included. -/
theorem State.ite_reg (s : State) (r : Reg) : (if r = 0#5 then 0#32 else s.reg r) = s.reg r := by
  by_cases hzero : r = 0#5
  · rw [if_pos hzero, hzero, State.reg_zero]
  · rw [if_neg hzero]

/-- To complete with a register's own value in it is to change nothing but the pc. -/
theorem CompletesWith.completesAs {r : Result} {s : State} {ra : Reg} (h : CompletesWith r s ra (s.reg ra)) :
    CompletesAs r s := by
  obtain ⟨t, hexec, hvalue, hpc, hregs, hrest⟩ := h
  refine ⟨t, hexec, hpc, fun q _ => ?_, hrest⟩
  by_cases hq : q = ra
  · rw [hq, hvalue, State.ite_reg]
  · exact hregs q (List.mem_singleton.not.mpr hq)

/-! ## The run of sign bits (R272) -/

section
variable (v : Word) (sign : Bool)

theorem countEqualBits_zero_of_eq (h : v.getLsbD 0 = sign) : countEqualBits v sign 0 = 1 :=
  if_pos (beq_iff_eq.mpr h)

theorem countEqualBits_succ_of_eq {i : Nat} (h : v.getLsbD (i + 1) = sign) :
    countEqualBits v sign (i + 1) = 1 + countEqualBits v sign i :=
  if_pos (beq_iff_eq.mpr h)

theorem countEqualBits_of_ne {i : Nat} (h : v.getLsbD i ≠ sign) : countEqualBits v sign i = 0 := by
  cases i <;> exact if_neg (mt beq_iff_eq.mp h)

/-- The run that is counted from bit `i` down has at most `i + 1` bits, each of them is `sign`, and the bit below the run, if
there is one, is not. -/
theorem countEqualBits_spec (i : Nat) :
    countEqualBits v sign i ≤ i + 1 ∧
      (∀ k : Nat, k ≤ i → i < k + countEqualBits v sign i → v.getLsbD k = sign) ∧
      (∀ k : Nat, k + countEqualBits v sign i = i → v.getLsbD k ≠ sign) := by
  by_cases htop : v.getLsbD i = sign
  case neg =>
    rw [countEqualBits_of_ne v sign htop]
    refine ⟨Nat.zero_le _, fun k hk hrun => absurd hk (Nat.not_le_of_lt hrun), fun k hk => ?_⟩
    rwa [show k = i from hk]
  case pos =>
    cases i with
    | zero =>
      rw [countEqualBits_zero_of_eq v sign htop]
      exact ⟨le_rfl, fun k hk _ => Nat.le_zero.mp hk ▸ htop, fun k hk => absurd hk (Nat.succ_ne_zero k)⟩
    | succ i =>
      obtain ⟨hle, hrun, hbelow⟩ := countEqualBits_spec i
      rw [countEqualBits_succ_of_eq v sign htop]
      refine ⟨by omega, fun k hk hlow => ?_, fun k hk => hbelow k (by omega)⟩
      obtain rfl | hlt := Nat.eq_or_lt_of_le hk
      · exact htop
      · exact hrun k (Nat.le_of_lt_succ hlt) (by omega)

end

/-- CSB's count `n`: bits 31 to `31 - n` are alike, and bit `30 - n`, if there is one, differs (R272). -/
theorem signBitCount_spec (v : Word) :
    ∃ n : Nat, n ≤ 31 ∧ (∀ k : Nat, 31 - n ≤ k → k ≤ 31 → v.getLsbD k = v.getLsbD 31) ∧
      (n < 31 → v.getLsbD (30 - n) ≠ v.getLsbD 31) ∧ signBitCount v = BitVec.ofNat 32 n := by
  obtain ⟨hle, hrun, hbelow⟩ := countEqualBits_spec v (v.getLsbD 31) 30
  refine ⟨_, hle, fun k hlow hhigh => ?_, fun hshort => hbelow _ (by omega), rfl⟩
  obtain rfl | hlt := Nat.eq_or_lt_of_le hhigh
  · rfl
  · exact hrun k (Nat.le_of_lt_succ hlt) (by omega)

/-! ## The bytes in the opposite order (R273) -/

section
variable (v : Word)

/-- BREV reads in one byte order what stands in the other. -/
theorem byteReverse_eq_little : byteReverse v =
    wordOfBytes .little (byteOfWord .big v 0) (byteOfWord .big v 1) (byteOfWord .big v 2) (byteOfWord .big v 3) := rfl

theorem byteReverse_eq_big : byteReverse v =
    wordOfBytes .big (byteOfWord .little v 0) (byteOfWord .little v 1) (byteOfWord .little v 2) (byteOfWord .little v 3) := rfl

/-- Byte `j` of the result, counted from the low end, is byte `j` of the operand, counted from the high end. -/
theorem byteOfWord_byteReverse {j : Nat} (hj : j < 4) :
    byteOfWord .little (byteReverse v) j = byteOfWord .big v j := by
  rw [byteReverse_eq_little]
  exact byteOfWord_wordOfBytes .little (byteOfWord .big v) hj

theorem getLsbD_byteOfWord_little (j : Nat) {k : Nat} (hk : k < 8) :
    (byteOfWord .little v j).getLsbD k = v.getLsbD (8 * j + k) := by
  rw [byteOfWord, BitVec.getLsbD_extractLsb', decide_eq_true hk, Bool.true_and]

theorem getLsbD_byteOfWord_big (j : Nat) {k : Nat} (hk : k < 8) :
    (byteOfWord .big v j).getLsbD k = v.getLsbD (8 * (3 - j) + k) := by
  rw [byteOfWord, BitVec.getLsbD_extractLsb', decide_eq_true hk, Bool.true_and, Nat.mul_sub]

/-- Each bit keeps its place in its byte (R273). -/
theorem getLsbD_byteReverse {k : Nat} (hk : k < 32) :
    (byteReverse v).getLsbD k = v.getLsbD (8 * (3 - k / 8) + k % 8) := by
  have hplace : k % 8 < 8 := Nat.mod_lt k (by decide)
  calc (byteReverse v).getLsbD k
    _ = (byteReverse v).getLsbD (8 * (k / 8) + k % 8) := by rw [Nat.div_add_mod]
    _ = (byteOfWord .little (byteReverse v) (k / 8)).getLsbD (k % 8) := (getLsbD_byteOfWord_little _ _ hplace).symm
    _ = (byteOfWord .big v (k / 8)).getLsbD (k % 8) := by rw [byteOfWord_byteReverse v (by omega)]
    _ = v.getLsbD (8 * (3 - k / 8) + k % 8) := getLsbD_byteOfWord_big v _ hplace

theorem byteReverse_byteReverse : byteReverse (byteReverse v) = v := by
  rw [byteReverse_eq_big, byteOfWord_byteReverse v (by decide), byteOfWord_byteReverse v (by decide),
    byteOfWord_byteReverse v (by decide), byteOfWord_byteReverse v (by decide), wordOfBytes_byteOfWord]

end

/-! ## SWAP (R274) -/

/-- SWAP: a load and a store of the same word, both checked before anything is written (D9). -/
theorem exec_swap {ra rb : Reg} {imm : BitVec 10} {s : State} {a : Word} (ha : addrDisp4 (s.reg rb) imm = a) :
    exec (.swap ra rb imm) s =
      withAccess s .load a .word
        (withAccess s .store a .word (writeAndAdvance (s.storeWord a (s.reg ra)) ra (s.wordAt a))) := by
  subst ha
  rfl

/-- The second of two checked accesses to one address stops as it would alone: where the first stops before it, it stops in
the same way. -/
theorem withAccess_withAccess_stops (s : State) (first second : AccessKind) (a : Word) (z : AccessSize) (go : Result) :
    AccessStops (withAccess s first a z (withAccess s second a z go)) s second a z := by
  obtain ⟨hfault, hrefuse, hdfault⟩ := withAccess_stops s first a z (withAccess s second a z go)
  refine ⟨fun haligned hsecond hvector => ?_, hrefuse, hdfault⟩
  cases hfirst : accessFault s.cfg first a z s.mode with
  | true => exact hfault haligned hfirst hvector
  | false =>
    obtain ⟨hsecondFault, -, -⟩ := withAccess_stops s second a z go
    rw [withAccess_accessible ⟨haligned, hfirst⟩]
    exact hsecondFault haligned hsecond hvector

end Machine

end Sys2Proof

namespace Sys2Proof.Proofs

open Sys2Proof Sys2Proof.Machine

/-- Settles O22: each writes the value its condition chooses, and where that is the register's own, nothing changes. -/
theorem conditionalMoves : Obligations.ConditionalMoves := by
  unfold Obligations.ConditionalMoves
  intro ra rb rc free s
  have hmvz := exec_mvz_completes ra rb rc s
  have hmvnz := exec_mvnz_completes ra rb rc s
  refine ⟨⟨decode_box_register ?mvz ra rb rc free, fun hzero => ?_, fun hne => CompletesWith.completesAs (ra := ra) ?_⟩,
    ⟨decode_box_register ?mvnz ra rb rc free, fun hne => ?_, fun hzero => CompletesWith.completesAs (ra := ra) ?_⟩⟩
  case mvz | mvnz =>
    intro w hop2
    simp only [decodeRegisterGroup, hop2]
  · rwa [if_pos hzero] at hmvz
  · rwa [if_neg hne] at hmvz
  · rwa [if_pos hne] at hmvnz
  · rwa [if_neg (not_not.mpr hzero)] at hmvnz

/-- Settles O24: the count of the run that starts at bit 30 is the `n` of the statement. -/
theorem countSignBits : Obligations.CountSignBits := by
  unfold Obligations.CountSignBits
  intro ra rb free s
  obtain ⟨n, hle, hrun, hbelow, hcount⟩ := signBitCount_spec (s.reg rb)
  exact ⟨decode_box10_csb ra rb free, n, hle, hrun, hbelow, writeAndAdvance_completes_eq hcount⟩

/-- Settles O25, from the bits of the reversed word and the involution. -/
theorem byteReverse : Obligations.ByteReverse := by
  unfold Obligations.ByteReverse
  intro ra rb free s
  exact ⟨decode_box10_brev ra rb free, _, fun _ => getLsbD_byteReverse (s.reg rb), byteReverse_byteReverse (s.reg rb),
    writeAndAdvance_completes s ra _⟩

/-- Settles O26: where both accesses can be made, the store of the old register and the write of the old word do not meet;
where one cannot, the check that fails first stops it. -/
theorem swapExchanges : Obligations.SwapExchanges := by
  unfold Obligations.SwapExchanges
  intro ra rb imm s a
  have hexec := exec_swap (ra := ra) (a := a) rfl
  rw [hexec]
  refine ⟨decode_box10_displacement ?swap ra rb imm, fun hload hstore => ?exchange, withAccess_stops s .load a .word _,
    withAccess_withAccess_stops s .load .store a .word _⟩
  case swap =>
    intro w hop2
    simp only [decodeDisplacementGroup, hop2]
  case exchange =>
    rw [withAccess_accessible hload, withAccess_accessible hstore]
    refine ⟨_, rfl, by simp, by simp, by simp, fun q hq => ?regs, by simp [SameControl], by simp [SameHidden],
      fun x hx => ?memory, fun x => ?stored⟩
    case regs => rw [State.reg_advance, State.reg_setReg_ne _ _ (List.ne_of_not_mem_cons hq), State.reg_storeWord]
    case memory => rw [State.byteAt_advance, State.byteAt_setReg, SameMemoryOutside_storeWord s a (s.reg ra) x hx]
    case stored => rw [State.advance_stored, State.setReg_stored, isStored_storeWord]

end Sys2Proof.Proofs
end

section
/-! System control (48_system.md R286 to R292): the system group of the decoder, a TRAP as an entry from the state that its
number was written to, RTE and the two accesses to the control registers. What an entry leaves is said by `enter_nonDebug` and
`enter_debug`, what a write of a control register does by `State.writeCr_some`. -/

namespace Sys2Proof

/-! ## The system group in the decoder (R117) -/

/-- A box with a 10-bit last cell under TRAP's operators is TRAP of its first and last cell; bits 20:16 are free. -/
theorem decode_box10_trap (ra : Reg) (free : BitVec 5) (imm : BitVec 10) :
    decode (Machine.box10 0b011001#6 ra free 0b000000#6 imm) = .ok (.trap ra imm) := by
  rw [decode, op1_box10]
  simp only [decodeSystemGroup, op2_box10, f25_box10, i10_box10]

/-- OP1 = `011001`: where OP2 alone says which instruction `i` without operands it is, every other cell is free. -/
theorem decode_box10_noOperands {o2 : BitVec 6} {i : Instr} (hrow : ∀ w, op2 w = o2 → decodeSystemGroup w = .ok i)
    (free25 free20 : BitVec 5) (free : BitVec 10) :
    decode (Machine.box10 0b011001#6 free25 free20 o2 free) = .ok i := by
  rw [decode, op1_box10]
  simp only [hrow _ (op2_box10 ..)]

/-- OP1 = `011001`: OP2 alone says which access `i` to a control register it is; the outer cells are the general register and
the index, and the cells between are free. -/
theorem decode_box_controlRegister {o2 : BitVec 6} {i : Reg → BitVec 5 → Instr}
    (hrow : ∀ w, op2 w = o2 → decodeSystemGroup w = .ok (i (f25 w) (f4 w))) (ra : Reg) (free20 free9 cr : BitVec 5) :
    decode (Machine.box 0b011001#6 ra free20 o2 free9 cr) = .ok (i ra cr) := by
  rw [decode, op1_box]
  simp only [hrow _ (op2_box ..), f25_box, f4_box]

namespace Machine

/-! ## An entry after the write of one register (R286) -/

/-- An exception entry writes no general register (R346). -/
theorem reg_of_enter {e : Exc} {ret : Word} {s t : State} (h : enter e ret s = .next t) (r : Reg) : t.reg r = s.reg r := by
  rw [enter_next h, State.reg_jump, State.reg_saveContext]

/-- Where the vector table stands does not depend on the general registers. -/
@[simp] theorem SpecVectorBase_setReg (s : State) (r : Reg) (v : Word) : SpecVectorBase (s.setReg r v) = SpecVectorBase s := by
  rw [SpecVectorBase, SpecVectorBase, State.setReg_cfg, State.vb_setReg]

theorem VectorReadable_setReg_iff (s : State) (r : Reg) (v offset : Word) :
    VectorReadable (s.setReg r v) offset ↔ VectorReadable s offset := by
  rw [VectorReadable, VectorReadable, SpecVectorBase_setReg, State.setReg_cfg]

/-- An entry from a state with one register written is an entry from the state before, but for that register. -/
theorem EntersNonDebug.of_setReg {r : Result} {s : State} {ra : Reg} {v offset ret : Word}
    (h : EntersNonDebug r (s.setReg ra v) offset ret []) : EntersNonDebug r s offset ret [ra] := by
  obtain ⟨t, hnext, hesr, hepc, hdsr, hdpc, hie, hds, hmode, hde, hvb, hreserved, hpc, hregs, hmem, hstored, hhidden⟩ := h
  simp only [State.readSr_setReg, State.setReg_dsr, State.setReg_dpc, State.de_setReg, State.vb_setReg, State.wordAt_setReg,
    SpecVectorBase_setReg, State.setReg_stored] at hesr hdsr hdpc hde hvb hpc hstored
  refine ⟨t, hnext, hesr, hepc, hdsr, hdpc, hie, hds, hmode, hde, hvb, hreserved, hpc, fun q hq => ?otherRegs, fun a => ?memory,
    hstored, by simpa [SameHidden] using hhidden⟩
  case otherRegs => rw [hregs q List.not_mem_nil, State.reg_setReg_ne s v (List.ne_of_not_mem_cons hq)]
  case memory => rw [hmem a, State.byteAt_setReg]

/-- TRAP (R286): its number is written first, then vector 5 is entered. -/
theorem exec_trap (ra : Reg) (imm : BitVec 10) (s : State) :
    exec (.trap ra imm) s = enter .trap (s.pc + 4#32) (s.setReg ra (sext32 imm)) := rfl

theorem exec_trap_enters {ra : Reg} {imm : BitVec 10} {s : State} (hvector : VectorReadable s 0x14#32) :
    EntersNonDebug (exec (.trap ra imm) s) s 0x14#32 (s.pc + 4#32) [ra] := by
  rw [exec_trap]
  exact (enter_nonDebug (e := .trap) rfl ((VectorReadable_setReg_iff s ra _ _).mpr hvector)).of_setReg

/-- What a completed TRAP leaves for the return: the pair of the non-debug exceptions, and a status word that names it. -/
theorem exec_trap_saved {ra : Reg} {imm : BitVec 10} {s t : State} (h : exec (.trap ra imm) s = .next t) :
    t.esr = s.readSr ∧ t.epc = s.pc + 4#32 ∧ t.ds = false ∧ t.mode = .supervisor := by
  rw [exec_trap] at h
  rw [enter_next h, State.jump_esr, State.jump_epc, State.ds_jump, State.mode_jump]
  obtain ⟨-, hmode, hds, -⟩ := State.saveContext_bits (s.setReg ra (sext32 imm)) .trap (s.pc + 4#32)
  obtain ⟨hesr, hepc, -⟩ := State.saveContext_nonDebug (s := s.setReg ra (sext32 imm)) (e := .trap) (ret := s.pc + 4#32) rfl
  exact ⟨hesr.trans (State.readSr_setReg ..), hepc, hds, hmode⟩

/-! ## SBRK and RTE (R287, R288) -/

section
variable {s : State}

theorem exec_sbrk_enabled (h : s.de = true) : exec .sbrk s = enter .sbrk (s.pc + 4#32) s := if_pos h

theorem exec_sbrk_disabled (h : s.de = false) : exec .sbrk s = enter .illins s.pc s := if_neg (Bool.eq_false_iff.mp h)

theorem exec_rte_supervisor (h : s.mode = .supervisor) : exec .rte s = .next s.returnFromException :=
  supervisorOnly_supervisor h

end

/-! ## RCR and WCR (R291, R292) -/

section
variable {s : State} {ra : Reg} {cr : BitVec 5}

theorem exec_rcr_completes {v : Word} (hmode : s.mode = .supervisor) (hread : s.readCr cr = some v) :
    CompletesWith (exec (.rcr ra cr) s) s ra v := by
  have hexec : exec (.rcr ra cr) s = writeAndAdvance s ra v := by
    rw [exec, execRcr, supervisorOnly_supervisor hmode, hread]
  rw [hexec]
  exact writeAndAdvance_completes s ra v

theorem exec_wcr_written {u : State} (hmode : s.mode = .supervisor) (hwrite : s.writeCr cr (s.reg ra) = some u) :
    exec (.wcr ra cr) s = .next u.advance := by
  rw [exec, execWcr, supervisorOnly_supervisor hmode, hwrite]

/-- An index of the five can be written, with any value (R290). -/
theorem State.writeCr_defined (s : State) (v : Word) (h : cr ∈ [0#5, 1#5, 2#5, 5#5, 6#5]) : ∃ u, s.writeCr cr v = some u := by
  obtain ⟨-, hwrite⟩ := State.cr_isSome s cr v
  exact Option.isSome_iff_exists.mp (hwrite.trans ((isControlRegister_iff cr).mpr h))

end

/-! ## Fields that are the same, as the frame says it -/

theorem SameRegs.of_regs_eq {s t : State} (h : t.regs = s.regs) : SameRegs s t [] := fun r _ => by
  rw [State.reg, State.reg, h]

theorem SameMemory.of_mem_eq {s t : State} (h : t.mem = s.mem) : SameMemory s t := fun a => by
  rw [State.byteAt, State.byteAt, h]

end Machine

end Sys2Proof

namespace Sys2Proof.Proofs

open Sys2Proof Sys2Proof.Machine

/-- Settles O27: the entry is that of vector 5 from the state with the number written, and an entry keeps the registers. -/
theorem trapEnters : Obligations.TrapEnters := by
  unfold Obligations.TrapEnters
  intro ra free imm s
  refine ⟨decode_box10_trap ra free imm, fun hvector => ⟨exec_trap_enters hvector, fun t hnext => ?number⟩⟩
  case number => rw [reg_of_enter hnext, State.reg_setReg_same, sext32_eq_ofInt]

/-- Settles O28, from the entries of the two classes: SBRK's own, of the debug class, and that of ILLINS. -/
theorem softwareBreak : Obligations.SoftwareBreak := by
  unfold Obligations.SoftwareBreak
  intro free25 free20 free s
  refine ⟨decode_box10_noOperands ?sbrk free25 free20 free, fun henabled hvector => ?debug, fun hdisabled hvector => ?illegal⟩
  case sbrk =>
    intro w hop2
    simp only [decodeSystemGroup, hop2]
  case debug =>
    rw [exec_sbrk_enabled henabled]
    exact enter_debug (e := .sbrk) rfl (by decide) hvector
  case illegal =>
    rw [exec_sbrk_disabled hdisabled]
    exact enter_nonDebug (e := .illins) rfl hvector

/-- Settles O29: what the return restores is `State.returnFromException_spec`; in user mode the privilege check stops it. -/
theorem returnFromException : Obligations.ReturnFromException := by
  unfold Obligations.ReturnFromException
  intro free25 free20 free s
  obtain ⟨hsr, hpc⟩ := State.returnFromException_spec s
  refine ⟨decode_box10_noOperands ?rte free25 free20 free, fun hmode => ⟨_, exec_rte_supervisor hmode, hsr, hpc, ?kept⟩,
    supervisorOnly_illegal rfl⟩
  case rte =>
    intro w hop2
    simp only [decodeSystemGroup, hop2]
  case kept =>
    exact ⟨by simp, by simp, by simp, by simp, SameRegs.of_regs_eq (by simp), SameMemory.of_mem_eq (by simp), by simp,
      by simp [SameHidden]⟩

/-- Settles O32: each index reads its register, SR through its storage bits; in user mode the privilege check comes before the
index. -/
theorem readControlRegister : Obligations.ReadControlRegister := by
  unfold Obligations.ReadControlRegister
  intro ra free20 free9 cr s
  refine ⟨decode_box_controlRegister ?rcr ra free20 free9 cr, fun hmode => ?reads, supervisorOnly_illegal rfl⟩
  case rcr =>
    intro w hop2
    simp only [decodeSystemGroup, hop2]
  case reads =>
    exact ⟨exec_rcr_completes hmode rfl, exec_rcr_completes hmode rfl, exec_rcr_completes hmode rfl,
      exec_rcr_completes hmode rfl, exec_rcr_completes hmode rfl⟩

/-- Settles O33: an index of the five can be written, and `State.writeCr_some` says what that changes; in user mode the
privilege check comes before the index. -/
theorem writeControlRegister : Obligations.WriteControlRegister := by
  unfold Obligations.WriteControlRegister
  intro ra free20 free9 cr s
  refine ⟨decode_box_controlRegister ?wcr ra free20 free9 cr, fun hmode hindex => ?writes, supervisorOnly_illegal rfl⟩
  case wcr =>
    intro w hop2
    simp only [decodeSystemGroup, hop2]
  case writes =>
    obtain ⟨u, hwrite⟩ := State.writeCr_defined s (s.reg ra) hindex
    obtain ⟨hregs, -, hmem, hstored, hhidden, -, hsr, hesr, hepc, hdsr, hdpc⟩ := State.writeCr_some hwrite
    exact ⟨u.advance, exec_wcr_written hmode hwrite, State.writeCr_advance_pc hwrite, hsr, hesr, hepc, hdsr, hdpc,
      SameRegs.of_regs_eq hregs, SameMemory.of_mem_eq hmem, hstored, hhidden⟩

/-- Settles O48: the status that the TRAP leaves lets RTE run and names ESR and EPC, which hold the old status and the
address after the TRAP. -/
theorem trapThenReturn : Obligations.TrapThenReturn := by
  unfold Obligations.TrapThenReturn
  intro ra imm s t u htrap hesr hepc hsr
  obtain ⟨hsavedSr, hsavedPc, hds, hmode⟩ := exec_trap_saved htrap
  have huds : u.ds = false := by rw [State.ds_def, hsr, ← State.ds_def, hds]
  have humode : u.mode = .supervisor := by rw [State.mode_def, hsr, ← State.mode_def, hmode]
  obtain ⟨hreturnSr, hreturnPc⟩ := State.returnFromException_spec u
  rw [huds] at hreturnSr hreturnPc
  refine ⟨_, exec_rte_supervisor humode, ?resumed, ?status⟩
  case resumed => exact hreturnPc.trans (hepc.trans hsavedPc)
  case status =>
    calc u.returnFromException.readSr
      _ = u.esr &&& srStorage &&& srStorage := congrArg (· &&& srStorage) hreturnSr
      _ = s.readSr &&& srStorage := by rw [storage_idem, hesr, hsavedSr]
      _ = s.readSr := storage_idem s.sr

end Sys2Proof.Proofs
end

section
/-! The step (60_exceptions.md R346, R351, R359, R360): what `step_cases` and `exec_cases` say together, as one list of outcomes,
from which the mode, the configuration, the invariant and the confinement of user mode are read off. -/

namespace Sys2Proof.Machine

open Sys2Proof

/-! ## All that a step can do -/

/-- The state after the sampling of one boundary, with the unit awake. -/
def Awake (s : State) : State := { Boundary s with sleeping := false }

theorem Boundary_eq_Awake {s : State} (h : s.sleeping = false) : Boundary s = Awake s := by
  unfold Awake Boundary
  rw [← h]

/-- The outcomes of a step from `s` to `t`. Every exception, an interrupt or not, is entered from the awake state: a unit that
sleeps raises none but INT, which wakes it. -/
inductive StepOutcome (s t : State) : Prop where
  | enters (entry : Entered (Awake s) t)
  | idles (asleep : s.sleeping = true) (idle : t = Boundary s)
  | returns (fetch : FetchesAt s) (word : decode (s.wordAt s.pc) = .ok .rte) (mode : s.mode = .supervisor)
      (restored : t = (Boundary s).returnFromException)
  | writesControl (fetch : FetchesAt s) (mode : s.mode = .supervisor) {cr : BitVec 5} {v : Word} {u : State}
      (write : (Boundary s).writeCr cr v = some u) (next : t = u.advance)
  | fallsAsleep (mode : s.mode = .supervisor) (enabled : s.ie = true) (slept : t = { (Boundary s).advance with sleeping := true })
  | plain (fetch : FetchesAt s) {i : Instr} (does : Plain i (Boundary s) t)

theorem FetchesAt.awake {s : State} (h : FetchesAt s) : s.sleeping = false := by
  obtain ⟨-, hawake, -⟩ := h
  exact hawake

theorem step_outcome {s t : State} (h : step s = .next t) : StepOutcome s t := by
  obtain ⟨-, -, hint⟩ | ⟨hasleep, hidle⟩ | ⟨i, hfetch, hword, hexec⟩ | ⟨hawake, e, hkind, henter⟩ := step_cases h
  · exact .enters ⟨.int, _, _, by decide, .inl rfl, hint⟩
  · exact .idles hasleep hidle
  · obtain hentered | ⟨rfl, hmode, ht⟩ | ⟨ra, cr, u, -, hmode, hwrite, ht⟩ | ⟨-, hmode, hie, ht⟩ | hplain := exec_cases hexec
    · exact .enters (Boundary_eq_Awake hfetch.awake ▸ hentered)
    · exact .returns hfetch hword hmode ht
    · exact .writesControl hfetch hmode hwrite ht
    · exact .fallsAsleep hmode hie ht
    · exact .plain hfetch hplain
  · rw [Boundary_eq_Awake hawake] at henter
    have hdboot : e ≠ .dboot := by
      rintro rfl
      cases hkind
    exact .enters ⟨e, _, _, hdboot, .inl rfl, henter⟩

/-! ## The control registers and the mode -/

theorem State.mode_of_sr {s t : State} (h : t.sr = s.sr) : t.mode = s.mode := by
  rw [State.mode_def, State.mode_def, h]

theorem Plain.mode_eq {i : Instr} {s t : State} (h : Plain i s t) : t.mode = s.mode := by
  obtain ⟨hsr, -⟩ := h.ordinary.control
  exact State.mode_of_sr hsr

theorem State.writeCr_mode {s u : State} {cr : BitVec 5} {v : Word} (h : s.writeCr cr v = some u) : u.mode = s.mode := by
  obtain ⟨-, -, -, -, -, hmode, -⟩ := State.writeCr_some h
  exact hmode

theorem Entered.supervisor {s t : State} (h : Entered s t) : t.mode = .supervisor := by
  obtain ⟨-, -, -, -, hmode, -⟩ := h.spec
  exact hmode

/-- Only an exception entry and RTE change the mode (R359). -/
theorem StepOutcome.mode_changes {s t : State} (h : StepOutcome s t) (hne : t.mode ≠ s.mode) :
    Entered (Awake s) t ∨
      FetchesAt s ∧ decode (s.wordAt s.pc) = .ok .rte ∧ s.mode = .supervisor ∧ t = (Boundary s).returnFromException := by
  cases h with
  | enters hentry => exact .inl hentry
  | idles _ ht => exact absurd (ht ▸ rfl) hne
  | returns hfetch hword hmode ht => exact .inr ⟨hfetch, hword, hmode, ht⟩
  | writesControl _ _ hwrite ht => exact absurd (by rw [ht, State.mode_advance, State.writeCr_mode hwrite, Boundary_mode]) hne
  | fallsAsleep _ _ ht => exact absurd (ht ▸ rfl) hne
  | plain _ hplain => exact absurd hplain.mode_eq hne

/-! ## The configuration -/

theorem StepOutcome.cfg_eq {s t : State} (h : StepOutcome s t) : t.cfg = s.cfg := by
  cases h with
  | enters hentry =>
    obtain ⟨-, -, -, -, -, -, -, -, hcfg, -⟩ := hentry.spec
    exact hcfg
  | idles _ ht => rw [ht, Boundary_cfg]
  | returns _ _ _ ht => rw [ht, State.returnFromException_cfg, Boundary_cfg]
  | writesControl _ _ hwrite ht =>
    obtain ⟨-, -, -, -, ⟨-, -, -, -, hcfg⟩, -⟩ := State.writeCr_some hwrite
    rw [ht, State.advance_cfg, hcfg, Boundary_cfg]
  | fallsAsleep _ _ ht => rw [ht]; rfl
  | plain _ hplain => rw [hplain.ordinary.cfg, Boundary_cfg]

/-! ## The invariant -/

theorem State.inv_iff (s : State) :
    s.Inv ↔ s.Canonical ∧ s.sr &&& ~~~srStorage = 0#32 ∧ (s.sleeping = true → s.ie = true ∧ s.mode = .supervisor) :=
  and_assoc.symm

/-- An awake state has the invariant as soon as its lists are canonical and the reserved bits of SR are 0. -/
theorem State.inv_of_awake {s : State} (hlists : s.Canonical) (hreserved : s.sr &&& ~~~srStorage = 0#32)
    (hawake : s.sleeping = false) : s.Inv :=
  (State.inv_iff s).mpr ⟨hlists, hreserved, fun hasleep => absurd (hawake.symm.trans hasleep) Bool.false_ne_true⟩

theorem State.canonical_of_eq {s t : State} (h : s.Canonical) (hmem : t.mem = s.mem) (hstored : t.stored = s.stored) :
    t.Canonical := by
  unfold State.Canonical
  rwa [hmem, hstored]

/-- A write of a control register leaves the reserved bits of SR 0 (R33). -/
theorem State.writeCr_reserved {s u : State} {cr : BitVec 5} {v : Word} (h : s.writeCr cr v = some u)
    (hreserved : s.sr &&& ~~~srStorage = 0#32) : u.sr &&& ~~~srStorage = 0#32 := by
  obtain ⟨-, -, -, -, -, -, hsr, -⟩ := State.writeCr_some h
  rw [hsr]
  split
  · rw [BitVec.and_or_distrib_right, BitVec.and_assoc, BitVec.and_assoc]
    exact (congrArg₂ (· ||| ·) BitVec.and_zero BitVec.and_zero).trans BitVec.or_zero
  · exact hreserved

/-- Every outcome of a step keeps the invariant. -/
theorem StepOutcome.keeps_inv {s t : State} (h : StepOutcome s t) (hinv : s.Inv) : t.Inv := by
  obtain ⟨hlists, hreserved, hasleep⟩ := (State.inv_iff s).mp hinv
  cases h with
  | enters hentry =>
    obtain ⟨-, -, -, -, -, -, hsr, hsleep, -, hmem, hstored⟩ := hentry.spec
    exact State.inv_of_awake (State.canonical_of_eq hlists hmem hstored) hsr hsleep
  | idles _ ht => exact ht ▸ hinv
  | returns hfetch _ _ ht =>
    obtain ⟨hsr, -⟩ := State.returnFromException_spec (Boundary s)
    subst ht
    exact State.inv_of_awake (State.canonical_of_eq hlists (by simp) (by simp)) (hsr ▸ storage_reserved _)
      (by simpa using hfetch.awake)
  | writesControl hfetch _ hwrite ht =>
    obtain ⟨-, -, hmem, hstored, ⟨hsleep, -⟩, -⟩ := State.writeCr_some hwrite
    have hsr := State.writeCr_reserved hwrite hreserved
    subst ht
    exact State.inv_of_awake (State.canonical_of_eq hlists hmem hstored) hsr
      (hsleep.trans hfetch.awake)
  | fallsAsleep hmode hie ht =>
    subst ht
    exact (State.inv_iff _).mpr ⟨hlists, hreserved, fun _ => ⟨hie, hmode⟩⟩
  | plain hfetch hplain =>
    obtain ⟨⟨hsr, -⟩, hsleep, -, -, hcanonical⟩ := hplain.ordinary
    exact State.inv_of_awake (hcanonical hlists) (hsr ▸ hreserved) (hsleep.trans hfetch.awake)

/-! ## User mode (R360) -/

/-- A step of an awake unit that stays in user mode runs an instruction that enters no exception. -/
theorem StepOutcome.plain_of_user {s t : State} (h : StepOutcome s t) (hawake : s.sleeping = false) (hs : s.mode = .user)
    (ht : t.mode = .user) : ∃ i, Plain i (Boundary s) t := by
  cases h with
  | enters hentry => cases hentry.supervisor.symm.trans ht
  | idles hasleep _ => cases hawake.symm.trans hasleep
  | plain _ hplain => exact ⟨_, hplain⟩
  | returns _ _ hmode _ | writesControl _ hmode _ _ | fallsAsleep hmode _ _ => cases hmode.symm.trans hs

/-- In user mode an instruction uses no channel but that of the unprivileged cache commands. -/
theorem Channels.of_user {s t : State} (h : Channels s t) (hs : s.mode = .user) :
    t.moduleLog = s.moduleLog ∧ (t.commandLog = s.commandLog ∨ ∃ (u : CommandUnit) (cmd : BitVec 4) (a : Word),
      (u = .icache ∨ u = .dcache) ∧ findCommand s.cfg u cmd = some ⟨u, cmd, false⟩ ∧
        t.commandLog = ⟨u, cmd, a⟩ :: s.commandLog) := by
  have huser : s.mode ≠ .supervisor := by rw [hs]; decide
  obtain ⟨hmodule, hcommand⟩ := h
  exact ⟨hmodule.resolve_right huser, hcommand.imp_right (Or.resolve_left · huser)⟩

/-- A fetch that ends in a next state has entered an exception, and shows nothing in user mode. -/
theorem Unseen.of_fetch_ends {s c : State} {r : Result} (h : fetchInstr s = .ends r) (r' : Result) : Unseen c r r' := by
  intro t ht
  subst ht
  obtain ⟨e, -, henter⟩ := fetchInstr_ends h
  exact Unseen.enter e s.pc s r' t henter

/-- A step in user mode reads no control register but the mode and the interrupt enable (R360). -/
theorem step_unseen {s c : State} (hs : s.mode = .user) (hc : c.mode = .user) (hie : c.ie = s.ie) :
    Unseen c (step s) (step (withControl s c)) := by
  have htakes : (withControl s c).takesInterrupt = s.takesInterrupt := congrArg (s.intRequest && ·) hie
  unfold step
  rw [htakes, withControl_sleeping, withControl_sampled]
  split
  · exact Unseen.enter _ _ _ _
  · split
    · exact Unseen.next _
    · split
      next i hi =>
        rw [fetchInstr_unseen (s := s.sampled) (hc.trans hs.symm) hi]
        exact exec_unseen i hs hc
      next r hr => exact Unseen.of_fetch_ends hr _

end Sys2Proof.Machine

namespace Sys2Proof.Proofs

open Sys2Proof Sys2Proof.Machine

/-- Settles O49: the mode changes by an entry alone, which leaves supervisor mode, or by RTE, which runs in it. -/
theorem modeTransitions : Obligations.ModeTransitions := by
  unfold Obligations.ModeTransitions
  intro s t hstep
  have hchanges := (step_outcome hstep).mode_changes
  refine ⟨fun hs ht => ?entry, fun hs ht => ?leave⟩
  case entry =>
    obtain hentry | ⟨-, -, hmode, -⟩ := hchanges (by rw [hs, ht]; decide)
    · obtain ⟨e, -, hsaved, hie, -, hpc, -⟩ := hentry.spec
      exact ⟨hsaved, hie, e, hpc⟩
    · cases hmode.symm.trans hs
  case leave =>
    obtain hentry | ⟨hfetch, hword, -, hreturn⟩ := hchanges (by rw [hs, ht]; decide)
    · cases hentry.supervisor.symm.trans ht
    · obtain ⟨hsr, -⟩ := State.returnFromException_spec (Boundary s)
      exact ⟨hfetch, hword, hreturn ▸ hsr⟩

/-- Settles O50: the step is that of an instruction without exception, and an outcome in user mode shows nothing of the control
registers. -/
theorem userModeIsConfined : Obligations.UserModeIsConfined := by
  unfold Obligations.UserModeIsConfined
  intro s t hawake hstep hs ht
  obtain ⟨i, hplain⟩ := (step_outcome hstep).plain_of_user hawake hs ht
  obtain ⟨hmodule, hcommand⟩ := hplain.channels.of_user hs
  exact ⟨⟨hplain.ordinary.control, hmodule, hplain.ordinary.sleeping.trans hawake, hcommand⟩,
    fun c hc hie => step_unseen hs hc hie t hstep ht⟩

/-- Settles O55. -/
theorem stepKeepsInvariant : Obligations.StepKeepsInvariant := by
  unfold Obligations.StepKeepsInvariant
  intro s t hinv hstep
  exact (step_outcome hstep).keeps_inv hinv

/-- Settles O51. -/
theorem configurationIsFixed : Obligations.ConfigurationIsFixed := by
  unfold Obligations.ConfigurationIsFixed
  intro s t hstep
  exact (step_outcome hstep).cfg_eq

end Sys2Proof.Proofs
end

section
/-! Decoding and encoding (30_encoding.md R109, R111, R118). `Instr.readAs` reads the operands of an instruction's row from a
word. A word decodes to an instruction exactly if it has the fixed bits of its row and the instruction is what `readAs` reads
(`decode_of_matchesRow`, `matchesRow_of_decode`), and the encoder puts back what was read (`encode_of_decode`). -/

namespace Sys2Proof

open Sys2Proof.Machine

/-! ## A field and the mask of its place -/

/-- A field put back at its own place is the word under the mask of that place. -/
theorem placeAt_slice (lo n : Nat) (w : Word) : placeAt lo (w.extractLsb' lo n) = w &&& placeAt lo (BitVec.allOnes n) := by
  ext i hi
  simp only [placeAt, BitVec.getElem_shiftLeft, BitVec.getElem_and, BitVec.getElem_setWidth, BitVec.getLsbD_extractLsb',
    BitVec.getLsbD_allOnes]
  by_cases hlow : i < lo
  · simp [hlow]
  · have hplace : lo + (i - lo) = i := by omega
    simp [hlow, hplace, hi, Bool.and_comm]

theorem placeAt_zero (lo n : Nat) : placeAt lo (0#n) = 0#32 := by
  simp [placeAt]

/-- A slice that a mask covers is the slice of what the mask leaves. -/
theorem slice_of_and_eq {w m p : Word} {lo n : Nat} (h : w &&& m = p) (hm : m.extractLsb' lo n = BitVec.allOnes n) :
    w.extractLsb' lo n = p.extractLsb' lo n := by
  rw [← h, BitVec.extractLsb'_and, hm, BitVec.and_allOnes]

/-! ## The layouts, encoded from the fields of a word

Each layout is an OR of fields, so with the fields of a word it is that word under the OR of their masks. Where the box draws a
zero, that field is zero in the word too. -/

section
variable {w : Word} {o1 o2 : BitVec 6}

theorem encOps_of_fields (h1 : op1 w = o1) (h2 : op2 w = o2) : encOps o1 o2 = w &&& 0xfc00fc00#32 := by
  subst h1 h2
  simp only [encOps, op1, op2, placeAt_slice, ← BitVec.and_or_distrib_left]
  rfl

theorem encRRR_of_fields (h1 : op1 w = o1) (h2 : op2 w = o2) :
    encRRR o1 o2 (f4 w) (f20 w) (f25 w) = w &&& (0xfc00fc00#32 ||| 0x03ff001f#32) := by
  rw [encRRR, encOps_of_fields h1 h2]
  simp only [f4, f20, f25, placeAt_slice, ← BitVec.and_or_distrib_left]
  rfl

theorem encRRRR_of_fields (h1 : op1 w = o1) (h2 : op2 w = o2) :
    encRRRR o1 o2 (f9 w) (f4 w) (f20 w) (f25 w) = w &&& (0xfc00fc00#32 ||| 0x03ff03ff#32) := by
  rw [encRRRR, encOps_of_fields h1 h2]
  simp only [f9, f4, f20, f25, placeAt_slice, ← BitVec.and_or_distrib_left]
  rfl

theorem encRRI10_of_fields (h1 : op1 w = o1) (h2 : op2 w = o2) :
    encRRI10 o1 o2 (f25 w) (f20 w) (i10 w) = w &&& (0xfc00fc00#32 ||| 0x03ff03ff#32) := by
  rw [encRRI10, encOps_of_fields h1 h2]
  simp only [f25, f20, i10, placeAt_slice, ← BitVec.and_or_distrib_left]
  rfl

theorem encRR_of_fields (h1 : op1 w = o1) (h2 : op2 w = o2) :
    encRR o1 o2 (f25 w) (f20 w) = w &&& (0xfc00fc00#32 ||| 0x03ff0000#32) := by
  rw [encRR, encOps_of_fields h1 h2]
  simp only [f25, f20, placeAt_slice, ← BitVec.and_or_distrib_left]
  rfl

theorem encCR_of_fields (h1 : op1 w = o1) (h2 : op2 w = o2) :
    encCR o1 o2 (f25 w) (f4 w) = w &&& (0xfc00fc00#32 ||| 0x03e0001f#32) := by
  rw [encCR, encOps_of_fields h1 h2]
  simp only [f25, f4, placeAt_slice, ← BitVec.and_or_distrib_left]
  rfl

theorem encTRAP_of_fields (h1 : op1 w = o1) (h2 : op2 w = o2) :
    encTRAP o1 o2 (f25 w) (i10 w) = w &&& (0xfc00fc00#32 ||| 0x03e003ff#32) := by
  rw [encTRAP, encOps_of_fields h1 h2]
  simp only [f25, i10, placeAt_slice, ← BitVec.and_or_distrib_left]
  rfl

theorem encRRI16_of_fields (h1 : op1 w = o1) :
    encRRI16 o1 (f25 w) (f20 w) (i16 w) = w &&& (0xfc000000#32 ||| 0x03ffffff#32) := by
  subst h1
  simp only [encRRI16, op1, f25, f20, i16, placeAt_slice, ← BitVec.and_or_distrib_left]
  rfl

theorem encRI21_of_fields (h1 : op1 w = o1) :
    encRI21 o1 (f25 w) (i21 w) = w &&& (0xfc000000#32 ||| 0x03ffffff#32) := by
  subst h1
  simp only [encRI21, op1, f25, i21, placeAt_slice, ← BitVec.and_or_distrib_left]
  rfl

/-- Adding the place of a zero field to a word's fields changes nothing. -/
theorem or_placeAt_of_zero {n lo : Nat} {field : BitVec n} (x : Word) (hzero : field = 0#n) : x = x ||| placeAt lo field := by
  rw [hzero, placeAt_zero, BitVec.or_zero]

theorem encRRI5_of_fields (h1 : op1 w = o1) (h2 : op2 w = o2) (hzero : f9 w = 0#5) :
    encRRI5 o1 o2 (f25 w) (f20 w) (f4 w) = w &&& (0xfc00ffe0#32 ||| 0x03ff001f#32) := by
  rw [encRRI5, encOps_of_fields h1 h2, or_placeAt_of_zero (lo := 5) (_ ||| _) hzero]
  simp only [f25, f20, f4, f9, placeAt_slice, ← BitVec.and_or_distrib_left]
  rfl

theorem encMCR_of_fields (h1 : op1 w = o1) (h2 : op2 w = o2) (hzero : mcrZero w = 0#2) :
    encMCR o1 o2 (f25 w) (mcrId w) (i10 w) = w &&& (0xfc18fc00#32 ||| 0x03e703ff#32) := by
  rw [encMCR, encOps_of_fields h1 h2, or_placeAt_of_zero (lo := 19) (_ ||| _) hzero]
  simp only [f25, mcrId, i10, mcrZero, placeAt_slice, ← BitVec.and_or_distrib_left]
  rfl

theorem encTLB_of_fields (h1 : op1 w = o1) (h2 : op2 w = o2) (hzero : cmdZero w = 0#1) :
    encTLB o1 o2 (cmdCode w) (f20 w) = w &&& (0xfe00fc00#32 ||| 0x01ff0000#32) := by
  rw [encTLB, encOps_of_fields h1 h2, or_placeAt_of_zero (lo := 25) (_ ||| _) hzero]
  simp only [cmdCode, f20, cmdZero, placeAt_slice, ← BitVec.and_or_distrib_left]
  rfl

theorem encCACHE_of_fields (h1 : op1 w = o1) (h2 : op2 w = o2) (hzero : cmdZero w = 0#1) :
    encCACHE o1 o2 (cmdCode w) (f20 w) (i10 w) = w &&& (0xfe00fc00#32 ||| 0x01ff03ff#32) := by
  rw [encCACHE, encOps_of_fields h1 h2, or_placeAt_of_zero (lo := 25) (_ ||| _) hzero]
  simp only [cmdCode, f20, i10, cmdZero, placeAt_slice, ← BitVec.and_or_distrib_left]
  rfl

end

/-! ## The rows of the opcode table (R118) -/

/-- The word has the fixed bits of the instruction's row. -/
def MatchesRow (w : Word) (i : Instr) : Prop := w &&& (opcodeRow i).mask = (opcodeRow i).pattern

/-- The bits of a word that are fixed or in a field of the instruction's row: all but the don't-care bits (R111). -/
def rowBits (i : Instr) (w : Word) : Word := w &&& ((opcodeRow i).mask ||| (opcodeRow i).fields)

/-- The instruction of the same row with the operands that a word holds in that row's fields (R109). -/
def Instr.readAs (w : Word) : Instr → Instr
  | .lhi _ _ => .lhi (f25 w) (i21 w)
  | .j _ _ => .j (f25 w) (i21 w)
  | .ja _ _ _ => .ja (f25 w) (f20 w) (i10 w)
  | .beq _ _ _ => .beq (f20 w) (f25 w) (i10 w)
  | .bne _ _ _ => .bne (f20 w) (f25 w) (i10 w)
  | .blt _ _ _ => .blt (f20 w) (f25 w) (i10 w)
  | .bge _ _ _ => .bge (f20 w) (f25 w) (i10 w)
  | .bltu _ _ _ => .bltu (f20 w) (f25 w) (i10 w)
  | .bgeu _ _ _ => .bgeu (f20 w) (f25 w) (i10 w)
  | .beqi _ _ _ => .beqi (f20 w) (f25 w) (i10 w)
  | .bnei _ _ _ => .bnei (f20 w) (f25 w) (i10 w)
  | .blti _ _ _ => .blti (f20 w) (f25 w) (i10 w)
  | .bgei _ _ _ => .bgei (f20 w) (f25 w) (i10 w)
  | .bequi _ _ _ => .bequi (f20 w) (f25 w) (i10 w)
  | .bneui _ _ _ => .bneui (f20 w) (f25 w) (i10 w)
  | .bltui _ _ _ => .bltui (f20 w) (f25 w) (i10 w)
  | .bgeui _ _ _ => .bgeui (f20 w) (f25 w) (i10 w)
  | .add _ _ _ => .add (f4 w) (f20 w) (f25 w)
  | .addi _ _ _ => .addi (f25 w) (f20 w) (i10 w)
  | .sub _ _ _ => .sub (f4 w) (f20 w) (f25 w)
  | .mulu _ _ _ _ => .mulu (f9 w) (f4 w) (f20 w) (f25 w)
  | .mul => .mul
  | .seq _ _ _ => .seq (f4 w) (f20 w) (f25 w)
  | .sne _ _ _ => .sne (f4 w) (f20 w) (f25 w)
  | .slt _ _ _ => .slt (f4 w) (f20 w) (f25 w)
  | .sge _ _ _ => .sge (f4 w) (f20 w) (f25 w)
  | .sltu _ _ _ => .sltu (f4 w) (f20 w) (f25 w)
  | .sgeu _ _ _ => .sgeu (f4 w) (f20 w) (f25 w)
  | .and _ _ _ => .and (f4 w) (f20 w) (f25 w)
  | .or _ _ _ => .or (f4 w) (f20 w) (f25 w)
  | .xor _ _ _ => .xor (f4 w) (f20 w) (f25 w)
  | .andn _ _ _ => .andn (f4 w) (f20 w) (f25 w)
  | .andi _ _ _ => .andi (f25 w) (f20 w) (i16 w)
  | .ori _ _ _ => .ori (f25 w) (f20 w) (i16 w)
  | .xori _ _ _ => .xori (f25 w) (f20 w) (i16 w)
  | .sll _ _ _ => .sll (f4 w) (f20 w) (f25 w)
  | .slr _ _ _ => .slr (f4 w) (f20 w) (f25 w)
  | .sar _ _ _ => .sar (f4 w) (f20 w) (f25 w)
  | .slli _ _ _ => .slli (f25 w) (f20 w) (f4 w)
  | .slri _ _ _ => .slri (f25 w) (f20 w) (f4 w)
  | .sari _ _ _ => .sari (f25 w) (f20 w) (f4 w)
  | .lr8 _ _ _ => .lr8 (f4 w) (f20 w) (f25 w)
  | .lr8u _ _ _ => .lr8u (f4 w) (f20 w) (f25 w)
  | .lr16 _ _ _ => .lr16 (f4 w) (f20 w) (f25 w)
  | .lr16u _ _ _ => .lr16u (f4 w) (f20 w) (f25 w)
  | .lr32 _ _ _ => .lr32 (f4 w) (f20 w) (f25 w)
  | .lx16 _ _ _ => .lx16 (f4 w) (f20 w) (f25 w)
  | .lx16u _ _ _ => .lx16u (f4 w) (f20 w) (f25 w)
  | .lx32 _ _ _ => .lx32 (f4 w) (f20 w) (f25 w)
  | .ld8 _ _ _ => .ld8 (f25 w) (f20 w) (i10 w)
  | .ld8u _ _ _ => .ld8u (f25 w) (f20 w) (i10 w)
  | .ld16 _ _ _ => .ld16 (f25 w) (f20 w) (i10 w)
  | .ld16u _ _ _ => .ld16u (f25 w) (f20 w) (i10 w)
  | .ld32 _ _ _ => .ld32 (f25 w) (f20 w) (i10 w)
  | .sr8 _ _ _ => .sr8 (f4 w) (f20 w) (f25 w)
  | .sr16 _ _ _ => .sr16 (f4 w) (f20 w) (f25 w)
  | .sr32 _ _ _ => .sr32 (f4 w) (f20 w) (f25 w)
  | .sx16 _ _ _ => .sx16 (f4 w) (f20 w) (f25 w)
  | .sx32 _ _ _ => .sx32 (f4 w) (f20 w) (f25 w)
  | .sd8 _ _ _ => .sd8 (f25 w) (f20 w) (i10 w)
  | .sd16 _ _ _ => .sd16 (f25 w) (f20 w) (i10 w)
  | .sd32 _ _ _ => .sd32 (f25 w) (f20 w) (i10 w)
  | .mvz _ _ _ => .mvz (f4 w) (f20 w) (f25 w)
  | .mvnz _ _ _ => .mvnz (f4 w) (f20 w) (f25 w)
  | .csb _ _ => .csb (f25 w) (f20 w)
  | .brev _ _ => .brev (f25 w) (f20 w)
  | .swap _ _ _ => .swap (f25 w) (f20 w) (i10 w)
  | .trap _ _ => .trap (f25 w) (i10 w)
  | .sbrk => .sbrk
  | .rte => .rte
  | .sleep => .sleep
  | .rcr _ _ => .rcr (f25 w) (f4 w)
  | .wcr _ _ => .wcr (f25 w) (f4 w)
  | .cld _ _ _ => .cld (f25 w) (mcrId w) (i10 w)
  | .cst _ _ _ => .cst (f25 w) (mcrId w) (i10 w)
  | .itlb _ _ => .itlb (cmdCode w) (f20 w)
  | .dtlb _ _ => .dtlb (cmdCode w) (f20 w)
  | .icache _ _ _ => .icache (cmdCode w) (f20 w) (i10 w)
  | .dcache _ _ _ => .dcache (cmdCode w) (f20 w) (i10 w)

theorem opcodeRow_readAs (i : Instr) (w : Word) : opcodeRow (i.readAs w) = opcodeRow i := by
  cases i <;> rfl

/-- What the encoder puts in a field is read back from it. -/
theorem readAs_encode (i : Instr) : i.readAs (encode i) = i := by
  cases i
  all_goals
    simp (disch := decide) only [Instr.readAs, encode, encRI21, encRRI10, encRRR, encRRRR, encOps, encRRI16, encRRI5, encRR,
      encTRAP, encCR, encMCR, encTLB, encCACHE, f25, f20, f9, f4, i10, i16, i21, mcrId, cmdCode, slice_or, slice_placeAt,
      slice_placeAt_apart, BitVec.or_zero, BitVec.zero_or]

open Laws.EncodesItsRow in
/-- Every instruction's word has the fixed bits of its row. -/
theorem matchesRow_encode (i : Instr) : MatchesRow (encode i) i := by
  suffices hrow : Statement i by
    obtain ⟨hfixed, -⟩ := hrow
    exact hfixed
  cases i
  exacts [
    lhi _ _, j _ _, ja _ _ _, beq _ _ _, bne _ _ _, blt _ _ _, bge _ _ _, bltu _ _ _, bgeu _ _ _, beqi _ _ _, bnei _ _
    _, blti _ _ _, bgei _ _ _, bequi _ _ _, bneui _ _ _, bltui _ _ _, bgeui _ _ _, add _ _ _, addi _ _ _, sub _ _ _,
    mulu _ _ _ _, mul, seq _ _ _, sne _ _ _, slt _ _ _, sge _ _ _, sltu _ _ _, sgeu _ _ _, and _ _ _, or _ _ _, xor _
    _ _, andn _ _ _, andi _ _ _, ori _ _ _, xori _ _ _, sll _ _ _, slr _ _ _, sar _ _ _, slli _ _ _, slri _ _ _, sari
    _ _ _, lr8 _ _ _, lr8u _ _ _, lr16 _ _ _, lr16u _ _ _, lr32 _ _ _, lx16 _ _ _, lx16u _ _ _, lx32 _ _ _, ld8 _ _ _,
    ld8u _ _ _, ld16 _ _ _, ld16u _ _ _, ld32 _ _ _, sr8 _ _ _, sr16 _ _ _, sr32 _ _ _, sx16 _ _ _, sx32 _ _ _, sd8 _
    _ _, sd16 _ _ _, sd32 _ _ _, mvz _ _ _, mvnz _ _ _, csb _ _, brev _ _, swap _ _ _, trap _ _, sbrk, rte, sleep, rcr
    _ _, wcr _ _, cld _ _ _, cst _ _ _, itlb _ _, dtlb _ _, icache _ _ _, dcache _ _ _]

/-! ## A word of a row decodes to the instruction of that row -/

section
variable {w : Word}

/-! Where OP1 names a group, OP2 decides (R118). -/

theorem decode_immediateGroup (h1 : op1 w = 0b000000#6) : decode w = decodeImmediateGroup w := by
  rw [decode, h1]
  rfl

theorem decode_registerGroup (h1 : op1 w = 0b000010#6) : decode w = decodeRegisterGroup w := by
  rw [decode, h1]
  rfl

theorem decode_branchImmediateGroup (h1 : op1 w = 0b000100#6) : decode w = decodeBranchImmediateGroup w := by
  rw [decode, h1]
  rfl

theorem decode_branchGroup (h1 : op1 w = 0b000110#6) : decode w = decodeBranchGroup w := by
  rw [decode, h1]
  rfl

theorem decode_displacementGroup (h1 : op1 w = 0b001000#6) : decode w = decodeDisplacementGroup w := by
  rw [decode, h1]
  rfl

theorem decode_indexGroup (h1 : op1 w = 0b001010#6) : decode w = decodeIndexGroup w := by
  rw [decode, h1]
  rfl

theorem decode_systemGroup (h1 : op1 w = 0b011001#6) : decode w = decodeSystemGroup w := by
  rw [decode, h1]
  rfl

/-- A mask over both operators pins them. -/
theorem operators_of_and {m p : Word} (h : w &&& m = p) (hm : op1 m = BitVec.allOnes 6 ∧ op2 m = BitVec.allOnes 6) :
    op1 w = op1 p ∧ op2 w = op2 p := by
  obtain ⟨hm1, hm2⟩ := hm
  exact ⟨slice_of_and_eq h hm1, slice_of_and_eq h hm2⟩

/-- The mask of the row pins OP1, which names the group, then OP2 and the field drawn as zero, where the box has them. -/
theorem decode_of_matchesRow {i : Instr} (h : MatchesRow w i) : decode w = .ok (i.readAs w) := by
  cases i <;> dsimp only [MatchesRow, opcodeRow] at h
  case lhi | j | andi | ori | xori =>
    have h1 : op1 w = _ := slice_of_and_eq (m := 0xfc000000#32) h (by decide)
    rw [decode, h1]
    rfl
  case slli | slri | sari =>
    obtain ⟨h1, h2⟩ := operators_of_and (m := 0xfc00ffe0#32) h (by decide)
    have hzero : f9 w = 0#5 := slice_of_and_eq (m := 0xfc00ffe0#32) h (by decide)
    rw [decode_immediateGroup h1, decodeImmediateGroup, h2]
    exact if_pos hzero
  case itlb | dtlb | icache | dcache =>
    obtain ⟨h1, h2⟩ := operators_of_and (m := 0xfe00fc00#32) h (by decide)
    have hzero : cmdZero w = 0#1 := slice_of_and_eq (m := 0xfe00fc00#32) h (by decide)
    rw [decode_immediateGroup h1, decodeImmediateGroup, h2]
    exact if_pos hzero
  case cld | cst =>
    obtain ⟨h1, h2⟩ := operators_of_and (m := 0xfc18fc00#32) h (by decide)
    have hzero : mcrZero w = 0#2 := slice_of_and_eq (m := 0xfc18fc00#32) h (by decide)
    rw [decode_systemGroup h1, decodeSystemGroup, h2]
    exact if_pos hzero
  all_goals obtain ⟨h1, h2⟩ := operators_of_and (m := 0xfc00fc00#32) h (by decide)
  case addi | ja | csb | brev =>
    rw [decode_immediateGroup h1, decodeImmediateGroup, h2]
    rfl
  case beqi | bnei | blti | bgei | bequi | bneui | bltui | bgeui =>
    rw [decode_branchImmediateGroup h1, decodeBranchImmediateGroup, h2]
    rfl
  case beq | bne | blt | bge | bltu | bgeu =>
    rw [decode_branchGroup h1, decodeBranchGroup, h2]
    rfl
  case ld8 | ld8u | ld16 | ld16u | ld32 | sd8 | sd16 | sd32 | swap =>
    rw [decode_displacementGroup h1, decodeDisplacementGroup, h2]
    rfl
  case lr8 | lr8u | lr16 | lr16u | lr32 | lx16 | lx16u | lx32 | sr8 | sr16 | sr32 | sx16 | sx32 =>
    rw [decode_indexGroup h1, decodeIndexGroup, h2]
    rfl
  case trap | sbrk | rte | sleep | rcr | wcr =>
    rw [decode_systemGroup h1, decodeSystemGroup, h2]
    rfl
  all_goals
    rw [decode_registerGroup h1, decodeRegisterGroup, h2]
    rfl

end

/-! ## What decodes is encoded back, but for the don't-care bits -/

section
variable {w : Word} {i : Instr}

theorem ifZero_ok {n : Nat} {field : BitVec n} {j : Instr} (h : ifZero field j = .ok i) : field = 0#n ∧ j = i := by
  unfold ifZero at h
  split at h
  · next hzero => exact ⟨hzero, Except.ok.inj h⟩
  · cases h

theorem ifZeroPrivileged_ok {n : Nat} {field : BitVec n} {j : Instr} (h : ifZeroPrivileged field j = .ok i) :
    field = 0#n ∧ j = i := by
  unfold ifZeroPrivileged at h
  split at h
  · next hzero => exact ⟨hzero, Except.ok.inj h⟩
  · cases h

theorem encode_of_immediateGroup (h1 : op1 w = 0b000000#6) (h : decodeImmediateGroup w = .ok i) : encode i = rowBits i w := by
  unfold decodeImmediateGroup at h
  split at h
  case h_1 h2 | h_3 h2 =>
    cases h
    exact encRRI10_of_fields h1 h2
  case h_2 h2 | h_5 h2 =>
    obtain ⟨hzero, rfl⟩ := ifZero_ok h
    exact encCACHE_of_fields h1 h2 hzero
  case h_4 h2 | h_6 h2 | h_8 h2 =>
    obtain ⟨hzero, rfl⟩ := ifZero_ok h
    exact encRRI5_of_fields h1 h2 hzero
  case h_7 h2 | h_9 h2 =>
    obtain ⟨hzero, rfl⟩ := ifZeroPrivileged_ok h
    exact encTLB_of_fields h1 h2 hzero
  case h_10 h2 | h_11 h2 =>
    cases h
    exact encRR_of_fields h1 h2
  case h_12 => cases h

theorem encode_of_registerGroup (h1 : op1 w = 0b000010#6) (h : decodeRegisterGroup w = .ok i) : encode i = rowBits i w := by
  unfold decodeRegisterGroup at h
  split at h <;> cases h
  case h_11 h2 => exact encRRRR_of_fields h1 h2
  case h_19 h2 => exact encOps_of_fields h1 h2
  all_goals
    next h2 => exact encRRR_of_fields h1 h2

theorem encode_of_branchImmediateGroup (h1 : op1 w = 0b000100#6) (h : decodeBranchImmediateGroup w = .ok i) :
    encode i = rowBits i w := by
  unfold decodeBranchImmediateGroup at h
  split at h <;> cases h
  all_goals
    next h2 => exact encRRI10_of_fields h1 h2

theorem encode_of_branchGroup (h1 : op1 w = 0b000110#6) (h : decodeBranchGroup w = .ok i) : encode i = rowBits i w := by
  unfold decodeBranchGroup at h
  split at h <;> cases h
  all_goals
    next h2 => exact encRRI10_of_fields h1 h2

theorem encode_of_displacementGroup (h1 : op1 w = 0b001000#6) (h : decodeDisplacementGroup w = .ok i) :
    encode i = rowBits i w := by
  unfold decodeDisplacementGroup at h
  split at h <;> cases h
  all_goals
    next h2 => exact encRRI10_of_fields h1 h2

theorem encode_of_indexGroup (h1 : op1 w = 0b001010#6) (h : decodeIndexGroup w = .ok i) : encode i = rowBits i w := by
  unfold decodeIndexGroup at h
  split at h <;> cases h
  all_goals
    next h2 => exact encRRR_of_fields h1 h2

theorem encode_of_systemGroup (h1 : op1 w = 0b011001#6) (h : decodeSystemGroup w = .ok i) : encode i = rowBits i w := by
  unfold decodeSystemGroup at h
  split at h
  case h_1 h2 =>
    cases h
    exact encTRAP_of_fields h1 h2
  case h_2 h2 | h_3 h2 | h_8 h2 =>
    cases h
    exact encOps_of_fields h1 h2
  case h_4 h2 | h_5 h2 =>
    cases h
    exact encCR_of_fields h1 h2
  case h_6 h2 | h_7 h2 =>
    obtain ⟨hzero, rfl⟩ := ifZero_ok h
    exact encMCR_of_fields h1 h2 hzero
  case h_9 => cases h

theorem encode_of_decode (h : decode w = .ok i) : encode i = rowBits i w := by
  unfold decode at h
  split at h
  case h_1 h1 => exact encode_of_immediateGroup h1 h
  case h_2 h1 => exact encode_of_registerGroup h1 h
  case h_3 h1 => exact encode_of_branchImmediateGroup h1 h
  case h_5 h1 => exact encode_of_branchGroup h1 h
  case h_6 h1 => exact encode_of_displacementGroup h1 h
  case h_8 h1 => exact encode_of_indexGroup h1 h
  case h_12 h1 => exact encode_of_systemGroup h1 h
  case h_4 h1 | h_7 h1 =>
    cases h
    exact encRI21_of_fields h1
  case h_9 h1 | h_10 h1 | h_11 h1 =>
    cases h
    exact encRRI16_of_fields h1
  case h_13 => cases h

/-- The fixed bits are among the bits of a row. -/
theorem matchesRow_rowBits_iff : MatchesRow (rowBits i w) i ↔ MatchesRow w i := by
  have hmask : ∀ m f : Word, (m ||| f) &&& m = m := fun m f => by
    ext k
    simpa using Or.inl
  rw [MatchesRow, rowBits, BitVec.and_assoc, hmask, MatchesRow]

theorem matchesRow_of_decode (h : decode w = .ok i) : MatchesRow w i := by
  rw [← matchesRow_rowBits_iff, ← encode_of_decode h]
  exact matchesRow_encode i

theorem decode_encode (i : Instr) : decode (encode i) = .ok i := by
  rw [decode_of_matchesRow (matchesRow_encode i), readAs_encode]

theorem encode_injective {j : Instr} (h : encode i = encode j) : i = j := by
  have hdecode : decode (encode i) = decode (encode j) := congrArg decode h
  rw [decode_encode, decode_encode] at hdecode
  exact Except.ok.inj hdecode

end

end Sys2Proof

namespace Sys2Proof.Proofs

open Sys2Proof Sys2Proof.Machine

/-- Settles O57: the word of an instruction has the fixed bits of its row, and the operands are read back from their fields. -/
theorem decodeOfEncode : Obligations.DecodeOfEncode := by
  unfold Obligations.DecodeOfEncode
  exact decode_encode

/-- Settles O58: both directions between a word that decodes and a word of a row, and what is encoded back. -/
theorem decodeIsTheOpcodeTable : Obligations.DecodeIsTheOpcodeTable := by
  unfold Obligations.DecodeIsTheOpcodeTable
  exact ⟨fun w i h => ⟨matchesRow_of_decode h, encode_of_decode h⟩,
    fun w j h => ⟨j.readAs w, decode_of_matchesRow h, opcodeRow_readAs j w⟩⟩

/-- Settles O59: a word with the same row bits is of the same row, so it decodes to an instruction of that row with the same
encoding, and the decoder takes an encoding back to its instruction. -/
theorem dontCareFields : Obligations.DontCareFields := by
  unfold Obligations.DontCareFields
  intro w w' i h hbits
  replace hbits : rowBits i w' = rowBits i w := hbits
  have hmatch : MatchesRow w' i := by
    rw [← matchesRow_rowBits_iff, hbits, matchesRow_rowBits_iff]
    exact matchesRow_of_decode h
  have hdecode := decode_of_matchesRow hmatch
  have hencode : encode (i.readAs w') = encode i := by
    rw [encode_of_decode hdecode, rowBits, opcodeRow_readAs, ← rowBits, hbits, encode_of_decode h]
  rw [hdecode, encode_injective hencode]

end Sys2Proof.Proofs
end

section
/-! The instructions that no earlier part speaks of: MULU and MUL (43_arithmetic_compare.md R184, R185), the 16-bit immediates
(44_bitwise.md R205 to R207), SLEEP, the undefined control registers, the module registers and the unit commands
(48_system.md R289, R290, R293 to R298), and what leaves memory alone (20_memory.md R65). -/

namespace Sys2Proof

/-! ## Boxes in the decoder (R109, R113, R114, R117) -/

/-- A box under MULU's operators is MULU of its four register cells: no bit is free. -/
theorem decode_box_mulu (rh ra rb rc : Reg) :
    decode (Machine.box 0b000010#6 rc rb 0b010001#6 rh ra) = .ok (.mulu rh ra rb rc) := by
  rw [decode, op1_box]
  simp only [decodeRegisterGroup, op2_box, f9_box, f4_box, f20_box, f25_box]

/-- MUL's two operators are all of its encoding. -/
theorem decode_box_mul (free25 free20 free9 free4 : BitVec 5) :
    decode (Machine.box 0b000010#6 free25 free20 0b110001#6 free9 free4) = .ok .mul := by
  rw [decode, op1_box]
  simp only [decodeRegisterGroup, op2_box]

/-- Format 5: OP1 alone says which instruction `i` with a 16-bit immediate it is; the cells are its operands (R110). -/
theorem decode_box16 {o1 : BitVec 6} {i : Reg → Reg → BitVec 16 → Instr}
    (hrow : ∀ w, op1 w = o1 → decode w = .ok (i (f25 w) (f20 w) (i16 w))) (ra rb : Reg) (imm : BitVec 16) :
    decode (Machine.box16 o1 ra rb imm) = .ok (i ra rb imm) := by
  rw [hrow _ (op1_box16 ..), f25_box16, f20_box16, i16_box16]

/-- OP1 = `011001`, the zero bits of the `00ID` cell zero: OP2 alone says which access `i` to a module register it is
(R104). -/
theorem decode_box10_module {o2 : BitVec 6} {i : Reg → BitVec 3 → BitVec 10 → Instr}
    (hrow : ∀ w, op2 w = o2 → decodeSystemGroup w = ifZero (mcrZero w) (i (f25 w) (mcrId w) (i10 w))) (ra : Reg)
    (id : BitVec 3) (number : BitVec 10) :
    decode (Machine.box10 0b011001#6 ra (0#2 ++ id) o2 number) = .ok (i ra id number) := by
  obtain ⟨hzero, hid⟩ := mcr_box10 0b011001#6 ra 0#2 id o2 number
  rw [decode, op1_box10]
  simp only [hrow _ (op2_box10 ..), hzero, hid, f25_box10, i10_box10]
  exact if_pos rfl

/-- OP1 = `000000`, the zero bit of the `0CMD` cell zero: OP2 alone says which TLB command `i` it is; the last cell is free
(R104). -/
theorem decode_box10_tlb {o2 : BitVec 6} {i : BitVec 4 → Reg → Instr}
    (hrow : ∀ w, op2 w = o2 → decodeImmediateGroup w = ifZeroPrivileged (cmdZero w) (i (cmdCode w) (f20 w)))
    (cmd : BitVec 4) (rb : Reg) (free : BitVec 10) :
    decode (Machine.box10 0b000000#6 (0#1 ++ cmd) rb o2 free) = .ok (i cmd rb) := by
  obtain ⟨hzero, hcmd⟩ := cmd_box10 0b000000#6 0#1 cmd rb o2 free
  rw [decode, op1_box10]
  simp only [hrow _ (op2_box10 ..), hzero, hcmd, f20_box10]
  exact if_pos rfl

/-- The same for the cache commands, whose last cell is an operand. -/
theorem decode_box10_cache {o2 : BitVec 6} {i : BitVec 4 → Reg → BitVec 10 → Instr}
    (hrow : ∀ w, op2 w = o2 → decodeImmediateGroup w = ifZero (cmdZero w) (i (cmdCode w) (f20 w) (i10 w)))
    (cmd : BitVec 4) (rb : Reg) (imm : BitVec 10) :
    decode (Machine.box10 0b000000#6 (0#1 ++ cmd) rb o2 imm) = .ok (i cmd rb imm) := by
  obtain ⟨hzero, hcmd⟩ := cmd_box10 0b000000#6 0#1 cmd rb o2 imm
  rw [decode, op1_box10]
  simp only [hrow _ (op2_box10 ..), hzero, hcmd, f20_box10, i10_box10]
  exact if_pos rfl

namespace Machine

/-! ## MULU (R184) -/

section
variable (x y : Word)

/-- The exact product of two words fits in 64 bits. -/
theorem toNat_unsignedProduct : (unsignedProduct x y).toNat = x.toNat * y.toNat := by
  have hfits : x.toNat * y.toNat < 2 ^ 32 * 2 ^ 32 := Nat.mul_lt_mul'' x.isLt y.isLt
  rw [unsignedProduct, BitVec.toNat_ofNat]
  exact Nat.mod_eq_of_lt hfits

theorem highWord_unsignedProduct :
    highWord (unsignedProduct x y) = BitVec.ofNat 32 (x.toNat * y.toNat / 2 ^ 32) := by
  rw [highWord, BitVec.extractLsb', toNat_unsignedProduct, Nat.shiftRight_eq_div_pow]

theorem lowWord_unsignedProduct :
    lowWord (unsignedProduct x y) = BitVec.ofNat 32 (x.toNat * y.toNat % 2 ^ 32) := by
  rw [lowWord, BitVec.extractLsb', toNat_unsignedProduct, Nat.shiftRight_zero]
  apply BitVec.eq_of_toNat_eq
  rw [BitVec.toNat_ofNat, BitVec.toNat_ofNat, Nat.mod_mod]

end

theorem destinationsDiffer_iff (rh ra : Reg) : destinationsDiffer rh ra = true ↔ rh ≠ ra ∨ ra = 0#5 := by
  rw [destinationsDiffer, Bool.or_eq_true, bne_iff_ne, beq_iff_eq]

section
variable {rh ra : Reg} (rb rc : Reg) (s : State)

theorem exec_mulu_differ (h : rh ≠ ra ∨ ra = 0#5) :
    exec (.mulu rh ra rb rc) s = writeAndAdvance (s.setReg rh (highWord (unsignedProduct (s.reg rb) (s.reg rc)))) ra
      (lowWord (unsignedProduct (s.reg rb) (s.reg rc))) :=
  if_pos ((destinationsDiffer_iff rh ra).mpr h)

theorem exec_mulu_same (h : rh = ra) (hra : ra ≠ 0#5) :
    exec (.mulu rh ra rb rc) s = .refused .muluSameDestination :=
  if_neg (mt (destinationsDiffer_iff rh ra).mp (not_or.mpr ⟨not_not.mpr h, hra⟩))

end

/-- Two registers written one after the other, unlike unless both are R0. -/
theorem writeAndAdvance_setReg {s : State} {q r : Reg} (v w : Word) (h : q ≠ r ∨ r = 0#5) :
    ∃ t : State, writeAndAdvance (s.setReg q v) r w = .next t ∧ t.reg q = (if q = 0#5 then 0#32 else v) ∧
      t.reg r = (if r = 0#5 then 0#32 else w) ∧ t.pc = s.pc + 4#32 ∧ Frame s t [q, r] := by
  obtain ⟨t, hexec, hr, hpc, hframe⟩ := writeAndAdvance_completes (s.setReg q v) r w
  have hfirst : Frame s (s.setReg q v) [q] := ⟨fun p hp => State.reg_setReg_ne s v (List.ne_of_not_mem_cons hp),
    by simp [SameControl], fun a => by simp, by simp, by simp [SameHidden]⟩
  refine ⟨t, hexec, ?first, hr, by rw [hpc, State.setReg_pc], (hfirst.mono (by simp)).trans (hframe.mono (by simp))⟩
  case first =>
    by_cases hqr : q = r
    · obtain rfl := h.resolve_left (not_not.mpr hqr)
      rw [hqr, State.reg_zero, if_pos rfl]
    · rw [hframe.reg_ne hqr, State.reg_setReg_same]

/-! ## A command or a use recorded, and the next instruction -/

theorem completesAs_advance (s : State) : CompletesAs (.next s.advance) s :=
  ⟨s.advance, rfl, rfl, fun _ _ => rfl, ⟨rfl, rfl, rfl, rfl, rfl⟩, fun _ => rfl, rfl, ⟨rfl, rfl, rfl, rfl, rfl⟩⟩

section
variable {s : State} {id : BitVec 3} {number : BitVec 10} {go : BitVec 9 → Result}

/-! ## The checks of CLD and CST, in their order (R293, R294) -/

theorem withModuleRegister_outOfRange (h : 511 < number.toNat) :
    withModuleRegister s id number go = .refused .moduleOperandOutOfRange :=
  if_neg (Nat.not_le_of_lt h)

theorem withModuleRegister_user (h : number.toNat ≤ 511) (hmode : s.mode = .user) :
    withModuleRegister s id number go = .refused .modulePrivilegeNotStated := by
  rw [withModuleRegister, if_pos h, hmode]

theorem withModuleRegister_present (h : number.toNat ≤ 511) (hmode : s.mode = .supervisor)
    (hregs : s.cfg.moduleRegs.contains (id, number.setWidth 9) = true) :
    withModuleRegister s id number go = go (number.setWidth 9) := by
  rw [withModuleRegister, if_pos h, hmode]
  exact if_pos hregs

theorem withModuleRegister_absent (h : number.toNat ≤ 511) (hmode : s.mode = .supervisor)
    (hregs : s.cfg.moduleRegs.contains (id, number.setWidth 9) = false) :
    withModuleRegister s id number go = .refused .moduleRegisterAbsent := by
  rw [withModuleRegister, if_pos h, hmode]
  exact if_neg (Bool.eq_false_iff.mp hregs)

end

/-- CLD (R293): past the checks, the use is recorded and the platform's answer written. -/
theorem exec_cld (ra : Reg) (id : BitVec 3) (number : BitVec 10) (s : State) :
    exec (.cld ra id number) s = withModuleRegister s id number fun n =>
      writeAndAdvance { s with moduleLog := .read id n :: s.moduleLog } ra (Config.moduleRead s.moduleLog id n) := rfl

/-- CST (R294): past the checks, the write is recorded. -/
theorem exec_cst (ra : Reg) (id : BitVec 3) (number : BitVec 10) (s : State) :
    exec (.cst ra id number) s = withModuleRegister s id number fun n =>
      .next { s with moduleLog := .write id n (s.reg ra) :: s.moduleLog }.advance := rfl

/-! ## Unit commands (R295 to R298) -/

section
variable {s : State} {u : CommandUnit} {cmd : BitVec 4} {a : Word}

theorem sendTlbCommand_defined {d : CommandDef} (hmode : s.mode = .supervisor) (hfind : findCommand s.cfg u cmd = some d) :
    CompletesAs (sendTlbCommand s u cmd a) { s with commandLog := ⟨u, cmd, a⟩ :: s.commandLog } := by
  rw [sendTlbCommand, supervisorOnly_supervisor hmode, hfind]
  exact send_completes s u cmd a

theorem sendTlbCommand_undefined (hmode : s.mode = .supervisor) (hfind : findCommand s.cfg u cmd = none) :
    sendTlbCommand s u cmd a = .refused (.commandNotDefined u) := by
  rw [sendTlbCommand, supervisorOnly_supervisor hmode, hfind]

theorem sendCacheCommand_defined {p : Bool} (hmay : s.mode = .supervisor ∨ p = false)
    (hfind : findCommand s.cfg u cmd = some ⟨u, cmd, p⟩) :
    CompletesAs (sendCacheCommand s u cmd a) { s with commandLog := ⟨u, cmd, a⟩ :: s.commandLog } := by
  have hsent : sendCacheCommand s u cmd a = .next (s.send u cmd a).advance := by
    rw [sendCacheCommand, hfind]
    cases p with
    | false => rfl
    | true => exact supervisorOnly_supervisor (hmay.resolve_right (by decide))
  rw [hsent]
  exact send_completes s u cmd a

theorem sendCacheCommand_undefined (hfind : findCommand s.cfg u cmd = none) :
    sendCacheCommand s u cmd a = .refused (.commandNotDefined u) := by
  rw [sendCacheCommand, hfind]

theorem sendCacheCommand_privileged (hfind : findCommand s.cfg u cmd = some ⟨u, cmd, true⟩) :
    sendCacheCommand s u cmd a = supervisorOnly s (.next (s.send u cmd a).advance) := by
  rw [sendCacheCommand, hfind]
  rfl

end

/-! ## SLEEP (R289) -/

section
variable {s : State}

theorem exec_sleep_waits (hmode : s.mode = .supervisor) (hwait : s.cfg.sleepPause = false) (hie : s.ie = true) :
    exec .sleep s = .next { s with sleeping := true }.advance := by
  rw [exec, execSleep, supervisorOnly_supervisor hmode, hwait, hie]
  rfl

theorem exec_sleep_masked (hmode : s.mode = .supervisor) (hwait : s.cfg.sleepPause = false) (hie : s.ie = false) :
    exec .sleep s = .refused .sleepInterruptsDisabled := by
  rw [exec, execSleep, supervisorOnly_supervisor hmode, hwait, hie]
  rfl

theorem exec_sleep_pauses (hmode : s.mode = .supervisor) (hpause : s.cfg.sleepPause = true) :
    exec .sleep s = .next s.advance := by
  rw [exec, execSleep, supervisorOnly_supervisor hmode, hpause]
  rfl

end

/-! ## An index that names no control register (R290) -/

theorem State.cr_undefined (s : State) {cr : BitVec 5} (v : Word) (h : cr ∉ [0#5, 1#5, 2#5, 5#5, 6#5]) :
    s.readCr cr = none ∧ s.writeCr cr v = none := by
  have hindex : isControlRegister cr = false := Bool.eq_false_iff.mpr (mt (isControlRegister_iff cr).mp h)
  obtain ⟨hread, hwrite⟩ := State.cr_isSome s cr v
  exact ⟨Option.not_isSome_iff_eq_none.mp (ne_true_of_eq_false (hread.trans hindex)),
    Option.not_isSome_iff_eq_none.mp (ne_true_of_eq_false (hwrite.trans hindex))⟩

/-! ## What leaves memory alone (R65) -/

/-- An instruction that is no store and not SWAP leaves the memory list and the marks as they were. -/
theorem exec_memory_eq {i : Instr} {s t : State} (h : exec i s = .next t) (hi : ¬ writesMemory i) :
    t.mem = s.mem ∧ t.stored = s.stored := by
  obtain hentered | ⟨-, -, rfl⟩ | ⟨ra, cr, u, -, -, hwrite, rfl⟩ | ⟨-, -, -, rfl⟩ | hplain := exec_cases h
  · obtain ⟨-, -, -, -, -, -, -, -, -, hmem, hstored⟩ := hentered.spec
    exact ⟨hmem, hstored⟩
  · exact ⟨State.returnFromException_mem s, State.returnFromException_stored s⟩
  · obtain ⟨-, -, hmem, hstored, -⟩ := State.writeCr_some hwrite
    exact ⟨hmem, hstored⟩
  · exact ⟨rfl, rfl⟩
  · exact hplain.memory.resolve_left hi

end Machine

end Sys2Proof

namespace Sys2Proof.Proofs

open Sys2Proof Sys2Proof.Machine

/-- Settles O9: the two halves are written one after the other, and the product fits in the two words. -/
theorem multiplyUnsigned : Obligations.MultiplyUnsigned := by
  unfold Obligations.MultiplyUnsigned
  intro rh ra rb rc s
  refine ⟨decode_box_mulu rh ra rb rc, fun hdiffer => ?_, exec_mulu_same rb rc s⟩
  rw [exec_mulu_differ rb rc s hdiffer, highWord_unsignedProduct, lowWord_unsignedProduct]
  exact writeAndAdvance_setReg _ _ hdiffer

/-- Settles O10. -/
theorem mulIsRefused : Obligations.MulIsRefused := by
  unfold Obligations.MulIsRefused
  intro free25 free20 free9 free4 s
  exact ⟨decode_box_mul free25 free20 free9 free4, rfl⟩

/-- Settles O13: each writes its operator's word, with the field sign-extended. -/
theorem bitwiseImmediates : Obligations.BitwiseImmediates := by
  unfold Obligations.BitwiseImmediates
  intro ra rb imm s
  rw [← sext32_eq_ofInt]
  refine ⟨⟨decode_box16 ?andi ra rb imm, writeAndAdvance_completes s ra _⟩,
    ⟨decode_box16 ?ori ra rb imm, writeAndAdvance_completes s ra _⟩,
    ⟨decode_box16 ?xori ra rb imm, writeAndAdvance_completes s ra _⟩⟩
  all_goals
    intro w hop1
    rw [decode, hop1]
    rfl

/-- Settles O17: the nine instructions left out are those that write memory. -/
theorem onlyStoresChangeMemory : Obligations.OnlyStoresChangeMemory := by
  unfold Obligations.OnlyStoresChangeMemory
  intro i s t hexec hindexed hdisplacement
  have hi : ¬ writesMemory i := by
    rintro (⟨ra, rb, rc, hi⟩ | ⟨ra, rb, imm, hi⟩)
    · have hnot := hindexed ra rb rc
      tauto
    · have hnot := hdisplacement ra rb imm
      tauto
  obtain ⟨hmem, hstored⟩ := exec_memory_eq hexec hi
  exact ⟨SameMemory.of_mem_eq hmem, hmem, hstored⟩

/-- Settles O30: the three cases of the mode and the mask, after the privilege check. -/
theorem sleepWaits : Obligations.SleepWaits := by
  unfold Obligations.SleepWaits
  intro free25 free20 free s
  refine ⟨decode_box10_noOperands ?sleep free25 free20 free, fun hmode hwait hie => ?waits, exec_sleep_masked,
    fun hmode hpause => ?pauses, supervisorOnly_illegal rfl⟩
  case sleep =>
    intro w hop2
    simp only [decodeSystemGroup, hop2]
  case waits => exact exec_sleep_waits hmode hwait hie ▸ completesAs_advance _
  case pauses => exact exec_sleep_pauses hmode hpause ▸ completesAs_advance s

/-- Settles O34: an index that names no register is neither read nor written. -/
theorem undefinedControlRegister : Obligations.UndefinedControlRegister := by
  unfold Obligations.UndefinedControlRegister
  intro ra cr s hmode hindex
  obtain ⟨hread, hwrite⟩ := State.cr_undefined s (s.reg ra) hindex
  constructor
  · rw [exec, execRcr, supervisorOnly_supervisor hmode, hread]
  · rw [exec, execWcr, supervisorOnly_supervisor hmode, hwrite]

/-- Settles O35: the checks in their order, and past them the write of the platform's answer in the state with the use
recorded. -/
theorem loadModuleRegister : Obligations.LoadModuleRegister := by
  unfold Obligations.LoadModuleRegister
  intro ra id number s
  rw [exec_cld]
  refine ⟨decode_box10_module ?cld ra id number, fun hnumber hmode hregs => ?answer, withModuleRegister_outOfRange,
    withModuleRegister_user, withModuleRegister_absent⟩
  case cld =>
    intro w hop2
    simp only [decodeSystemGroup, hop2]
  case answer =>
    rw [withModuleRegister_present hnumber hmode hregs]
    exact writeAndAdvance_completes _ ra _

/-- Settles O36: the same checks, and past them the write recorded. -/
theorem storeModuleRegister : Obligations.StoreModuleRegister := by
  unfold Obligations.StoreModuleRegister
  intro ra id number s
  rw [exec_cst]
  refine ⟨decode_box10_module ?cst ra id number, fun hnumber hmode hregs => ?recorded, withModuleRegister_outOfRange,
    withModuleRegister_user, withModuleRegister_absent⟩
  case cst =>
    intro w hop2
    simp only [decodeSystemGroup, hop2]
  case recorded =>
    rw [withModuleRegister_present hnumber hmode hregs]
    exact completesAs_advance _

/-- Settles O37: both are `sendTlbCommand` with their unit. -/
theorem tlbCommands : Obligations.TlbCommands := by
  unfold Obligations.TlbCommands
  intro cmd rb free s
  refine ⟨⟨decode_box10_tlb ?itlb cmd rb free, fun _ => sendTlbCommand_defined, sendTlbCommand_undefined,
      supervisorOnly_illegal rfl⟩,
    ⟨decode_box10_tlb ?dtlb cmd rb free, fun _ => sendTlbCommand_defined, sendTlbCommand_undefined,
      supervisorOnly_illegal rfl⟩⟩
  all_goals
    intro w hop2
    simp only [decodeImmediateGroup, hop2]

/-- Settles O38: both are `sendCacheCommand` with their unit and the scaled address. -/
theorem cacheCommands : Obligations.CacheCommands := by
  unfold Obligations.CacheCommands
  intro cmd rb imm s
  refine ⟨⟨decode_box10_cache ?icache cmd rb imm, fun _ => sendCacheCommand_defined, sendCacheCommand_undefined,
      fun hfind => supervisorOnly_illegal (sendCacheCommand_privileged hfind)⟩,
    ⟨decode_box10_cache ?dcache cmd rb imm, fun _ => sendCacheCommand_defined, sendCacheCommand_undefined,
      fun hfind => supervisorOnly_illegal (sendCacheCommand_privileged hfind)⟩⟩
  all_goals
    intro w hop2
    simp only [decodeImmediateGroup, hop2]

end Sys2Proof.Proofs
end

section
/-! The boundary and the fetch (10_state.md R25, 20_memory.md R67, R74, 30_encoding.md R111, R118, R119, 60_exceptions.md R351):
which of its stages a step ends in, and what it does there. What an entry leaves is said by `enter_nonDebug`. -/

namespace Sys2Proof

open Sys2Proof.Machine

/-! ## Words that are no instruction (R111, R119) -/

theorem ifZero_ne_unassigned {n : Nat} (field : BitVec n) (i : Instr) : ifZero field i ≠ .error .unassigned := by
  unfold ifZero
  split <;> nofun

theorem ifZeroPrivileged_ne_unassigned {n : Nat} (field : BitVec n) (i : Instr) :
    ifZeroPrivileged field i ≠ .error .unassigned := by
  unfold ifZeroPrivileged
  split <;> nofun

/-- The decoder's branches are the operator pairs of the tables: each branch that names a pair gives an instruction or the
check of a zero field, and where no branch does, every pair of the tables is excluded (R112 to R117, R119). -/
theorem decode_unassigned_iff (w : Word) : decode w = .error .unassigned ↔ isAssigned (op1 w) (op2 w) = false := by
  unfold decode
  split
  case h_1 =>
    unfold decodeImmediateGroup
    split <;> simp_all [isAssigned, ifZero_ne_unassigned, ifZeroPrivileged_ne_unassigned]
  case h_2 => unfold decodeRegisterGroup; split <;> simp_all [isAssigned]
  case h_3 => unfold decodeBranchImmediateGroup; split <;> simp_all [isAssigned]
  case h_5 => unfold decodeBranchGroup; split <;> simp_all [isAssigned]
  case h_6 => unfold decodeDisplacementGroup; split <;> simp_all [isAssigned]
  case h_8 => unfold decodeIndexGroup; split <;> simp_all [isAssigned]
  case h_12 => unfold decodeSystemGroup; split <;> simp_all [isAssigned, ifZero_ne_unassigned]
  case h_4 | h_7 | h_9 | h_10 | h_11 => simp_all [isAssigned]
  case h_13 => simp_all [isAssigned, eq_comm (b := op1 w)]

section
variable {w : Word}

theorem decode_shiftImmediate_nonZero (h1 : op1 w = 0b000000#6) (h2 : op2 w ∈ [0b000100#6, 0b001000#6, 0b001100#6])
    (hfield : f9 w ≠ 0#5) : decode w = .error .mustBeZero := by
  simp only [List.mem_cons, List.not_mem_nil, or_false] at h2
  rw [decode_immediateGroup h1]
  obtain h2 | h2 | h2 := h2 <;> rw [decodeImmediateGroup, h2] <;> exact if_neg hfield

/-- Bit 25 is the whole of the zero field of a `0CMD` cell (R104). -/
theorem cmdZero_ne_zero (h : w.getLsbD 25 = true) : cmdZero w ≠ 0#1 := by
  intro hzero
  have hbit : (cmdZero w).getLsbD 0 = w.getLsbD 25 := by
    rw [cmdZero, BitVec.getLsbD_extractLsb']
    rfl
  rw [hzero, h] at hbit
  cases hbit

theorem decode_cache_nonZero (h1 : op1 w = 0b000000#6) (h2 : op2 w ∈ [0b000001#6, 0b000101#6])
    (hbit : w.getLsbD 25 = true) : decode w = .error .mustBeZero := by
  simp only [List.mem_cons, List.not_mem_nil, or_false] at h2
  rw [decode_immediateGroup h1]
  obtain h2 | h2 := h2 <;> rw [decodeImmediateGroup, h2] <;> exact if_neg (cmdZero_ne_zero hbit)

theorem decode_tlb_nonZero (h1 : op1 w = 0b000000#6) (h2 : op2 w ∈ [0b001001#6, 0b001101#6])
    (hbit : w.getLsbD 25 = true) : decode w = .error .mustBeZeroPrivileged := by
  simp only [List.mem_cons, List.not_mem_nil, or_false] at h2
  rw [decode_immediateGroup h1]
  obtain h2 | h2 := h2 <;> rw [decodeImmediateGroup, h2] <;> exact if_neg (cmdZero_ne_zero hbit)

theorem decode_module_nonZero (h1 : op1 w = 0b011001#6) (h2 : op2 w ∈ [0b001000#6, 0b001001#6])
    (hfield : mcrZero w ≠ 0#2) : decode w = .error .mustBeZero := by
  simp only [List.mem_cons, List.not_mem_nil, or_false] at h2
  rw [decode_systemGroup h1]
  obtain h2 | h2 := h2 <;> rw [decodeSystemGroup, h2] <;> exact if_neg hfield

end

namespace Machine

section
variable {s : State}

/-! ## The stages before the fetch (R351) -/

theorem takesInterrupt_false (h : s.intRequests.headD false = false ∨ s.ie = false) : s.takesInterrupt = false := by
  unfold State.takesInterrupt State.intRequest
  obtain h | h := h <;> rw [h]
  · rfl
  · exact Bool.and_false _

/-- A request that SR.IE lets through is the whole of the step: INT is entered from the awake state. -/
theorem step_of_request (hrequest : s.intRequests.headD false = true) (hie : s.ie = true) :
    step s = enter .int s.pc (Awake s) :=
  if_pos (Bool.and_eq_true_iff.mpr ⟨hrequest, hie⟩)

theorem step_of_asleep (h : s.intRequests.headD false = false ∨ s.ie = false) (hasleep : s.sleeping = true) :
    step s = .next (Boundary s) := by
  rw [step, takesInterrupt_false h, hasleep]
  rfl

/-- A fetch that gives no instruction is the whole of the step. -/
theorem step_of_fetch_ends (h : s.intRequests.headD false = false ∨ s.ie = false) (hawake : s.sleeping = false) {r : Result}
    (hfetch : fetchInstr (Boundary s) = .ends r) : step s = r := by
  have hsampled : fetchInstr s.sampled = .ends r := hfetch
  rw [step, takesInterrupt_false h, hawake, hsampled]
  rfl

/-! ## The stages of the fetch (R25, R67, R74) -/

theorem fetchInstr_faults (haligned : isAligned s.pc .word = true)
    (hfault : accessFault s.cfg .fetch s.pc .word s.mode = true) : fetchInstr s = .ends (enter .ifault s.pc s) := by
  rw [fetchInstr, haligned, hfault]
  rfl

theorem fetchInstr_misaligned_refused (haligned : isAligned s.pc .word = false) (hpolicy : s.cfg.misalignedPc = .refuse) :
    fetchInstr s = .ends (.refused .misalignedPc) := by
  rw [fetchInstr, haligned, hpolicy]
  rfl

theorem fetchInstr_misaligned_raises (haligned : isAligned s.pc .word = false) (hpolicy : s.cfg.misalignedPc = .ifault) :
    fetchInstr s = .ends (enter .ifault s.pc s) := by
  rw [fetchInstr, haligned, hpolicy]
  rfl

theorem fetchInstr_modified (haligned : isAligned s.pc .word = true)
    (hfault : accessFault s.cfg .fetch s.pc .word s.mode = false) (hcoherent : s.cfg.ifetchCoherent = false)
    (hmodified : s.modified s.pc = true) : fetchInstr s = .ends (.refused .fetchOfModifiedCode) := by
  rw [fetchInstr, haligned, hfault, hcoherent, hmodified]
  rfl

theorem State.modified_of_isStored {a : Word} {k : Nat} (hk : k < 4)
    (hstored : isStored s.stored (a + BitVec.ofNat 32 k) = true) : s.modified a = true := by
  by_contra hclean
  have hnone := (State.modified_false_iff s a).mp (Bool.eq_false_iff.mpr hclean) k hk
  exact Bool.false_ne_true (hnone.symm.trans hstored)

/-! ## What becomes of the fetched word (R118, R119) -/

theorem step_of_decode_ok (h : FetchesAt s) {i : Instr} (hword : decode (s.wordAt s.pc) = .ok i) :
    step s = exec i (Boundary s) := by
  rw [step_fetched h, hword]

theorem step_of_decode_error (h : FetchesAt s) {e : DecodeError} (hword : decode (s.wordAt s.pc) = .error e) :
    step s = rejectEncoding (Boundary s) e := by
  rw [step_fetched h, hword]

end

/-! ## Vectors (R343, R344, R356) -/

/-- The vector base, as a number, for each value of SR.VB (R344). -/
theorem vbase_eq_ofNat : ∀ vb : BitVec 3,
    resetVectorBase ||| (zext32 vb <<< 26) = BitVec.ofNat 32 (0x80000000 + vb.toNat * 0x04000000) := by decide

theorem enter_faults {e : Exc} {ret : Word} {s : State}
    (h : accessFault s.cfg .load (s.vectorBase e + e.offset) .word .supervisor = true) :
    enter e ret s = .refused .faultDuringExceptionEntry := by
  rw [enter, h]
  rfl

/-- After an entry no interrupt is taken, and the unit is in supervisor mode (R346). -/
theorem enter_masks {e : Exc} {ret : Word} {s t : State} (h : enter e ret s = .next t) :
    t.ie = false ∧ t.mode = .supervisor := by
  obtain ⟨hie, hmode, -⟩ := State.saveContext_bits s e ret
  rw [enter_next h, State.ie_jump, State.mode_jump]
  exact ⟨hie, hmode⟩

theorem State.inv_powerOn (cfg : Config) {mem : Memory} (h : Memory.wf mem = true) : (State.powerOn cfg mem).Inv :=
  State.inv_of_awake ⟨h, rfl⟩ (by rw [State.powerOn_sr]; decide) (State.powerOn_sleeping cfg mem)

end Machine

end Sys2Proof

namespace Sys2Proof.Proofs

open Sys2Proof Sys2Proof.Machine

/-- Settles O31: without a request the unit idles; a request that is let through is taken. -/
theorem sleepingIdlesUntilInterrupt : Obligations.SleepingIdlesUntilInterrupt := by
  unfold Obligations.SleepingIdlesUntilInterrupt
  intro s hasleep hie
  refine ⟨fun hrequest => step_of_asleep (.inl hrequest) hasleep, fun hrequest hvector => ?wakes⟩
  case wakes =>
    rw [step_of_request hrequest hie]
    exact enter_nonDebug (e := .int) rfl hvector

/-- Settles O44: the request is looked at before the fetch. -/
theorem interruptAtBoundary : Obligations.InterruptAtBoundary := by
  unfold Obligations.InterruptAtBoundary
  intro s hrequest hie hvector
  rw [step_of_request hrequest hie]
  exact enter_nonDebug (e := .int) rfl hvector

/-- Settles O39. -/
theorem stepRunsTheInstruction : Obligations.StepRunsTheInstruction := by
  unfold Obligations.StepRunsTheInstruction
  intro s i hfetch hword
  exact step_of_decode_ok hfetch hword

/-- Settles O40: the decoder's error is the absence of the operator pair, and that error is ILLINS. -/
theorem unassignedRaisesIllins : Obligations.UnassignedRaisesIllins := by
  unfold Obligations.UnassignedRaisesIllins
  refine ⟨decode_unassigned_iff, fun s hfetch hpair hvector => ?illegal⟩
  case illegal =>
    rw [step_of_decode_error hfetch ((decode_unassigned_iff _).mpr hpair)]
    exact enter_nonDebug (e := .illins) rfl hvector

/-- Settles O41: which error each field gives; that of ITLB and DTLB is met by the privilege check first. -/
theorem mustBeZeroFields : Obligations.MustBeZeroFields := by
  unfold Obligations.MustBeZeroFields
  intro s hfetch
  refine ⟨fun h1 h2 hfield => step_of_decode_error hfetch (decode_shiftImmediate_nonZero h1 h2 hfield),
    fun h1 h2 hbit => step_of_decode_error hfetch (decode_cache_nonZero h1 h2 hbit),
    fun h1 h2 hfield => step_of_decode_error hfetch (decode_module_nonZero h1 h2 hfield), fun h1 h2 hbit => ?tlb⟩
  case tlb =>
    rw [step_of_decode_error hfetch (decode_tlb_nonZero h1 h2 hbit)]
    refine ⟨supervisorOnly_supervisor (s := Boundary s), fun hmode hvector => ?illegal⟩
    case illegal =>
      rw [rejectEncoding, supervisorOnly_user (s := Boundary s) hmode]
      exact enter_nonDebug (e := .illins) rfl hvector

/-- Settles O42: each case is one stage of the fetch. -/
theorem fetchFaults : Obligations.FetchFaults := by
  unfold Obligations.FetchFaults
  intro s hquiet hawake
  refine ⟨fun haligned hfault hvector => ?faults, fun haligned hpolicy => ?refused, fun haligned hpolicy hvector => ?raises⟩
  case faults =>
    rw [step_of_fetch_ends hquiet hawake (fetchInstr_faults haligned hfault)]
    exact enter_nonDebug (e := .ifault) rfl hvector
  case refused => exact step_of_fetch_ends hquiet hawake (fetchInstr_misaligned_refused haligned hpolicy)
  case raises =>
    rw [step_of_fetch_ends hquiet hawake (fetchInstr_misaligned_raises haligned hpolicy)]
    exact enter_nonDebug (e := .ifault) rfl hvector

/-- Settles O43: one stored byte of the four is enough. -/
theorem fetchOfModifiedCode : Obligations.FetchOfModifiedCode := by
  unfold Obligations.FetchOfModifiedCode
  intro s k hquiet hawake haligned hfault hcoherent hk hstored
  have hmodified : s.modified s.pc = true := State.modified_of_isStored hk hstored
  exact step_of_fetch_ends hquiet hawake (fetchInstr_modified haligned hfault hcoherent hmodified)

/-- Settles O45: an entry clears IE, whatever the request. -/
theorem entryMasksInterrupts : Obligations.EntryMasksInterrupts := by
  unfold Obligations.EntryMasksInterrupts
  intro e ret s t henter
  obtain ⟨hie, hmode⟩ := enter_masks henter
  exact ⟨takesInterrupt_false (.inr hie), hmode⟩

/-- Settles O46: the check of the vector read comes before anything an entry or a reset does. -/
theorem faultInVectorRead : Obligations.FaultInVectorRead := by
  unfold Obligations.FaultInVectorRead
  exact ⟨fun _ _ _ => enter_faults, fun _ _ => powerOnReset_faults⟩

/-- Settles O47: the two cases of the definition, with the base of the second as a number. -/
theorem vectorBase : Obligations.VectorBase := by
  unfold Obligations.VectorBase
  intro e s
  rw [State.vectorBase, vbase_eq_ofNat]
  exact if_congr (by rw [Bool.or_eq_true, beq_iff_eq]) rfl rfl

/-- Settles O54: the launch memory is canonical, nothing is stored to, and the unit is awake. -/
theorem invariantAtReset : Obligations.InvariantAtReset := by
  unfold Obligations.InvariantAtReset
  refine ⟨fun cfg mem hmem => ⟨State.inv_powerOn cfg hmem, fun t hreset => ?reset⟩, State.inv_powerOn _ rfl⟩
  case reset =>
    obtain ⟨-, rfl⟩ := powerOnReset_next hreset
    exact State.inv_powerOn cfg hmem

end Sys2Proof.Proofs
end

section
/-! The assembler's operators (49_abi_assembler.md R330) as numbers: each is a quotient or a remainder of the value, and the
pairs add up to it again. Six instruction words written out (30_encoding.md R109) stand at the end. -/

namespace Sys2Proof.Machine

open Sys2Proof

/-! ## The operators as numbers -/

section
variable (v : Word)

theorem toNat_opH21 : (opH21 v).toNat = v.toNat / 2048 := by
  have hword := v.isLt
  rw [opH21, BitVec.toNat_setWidth, BitVec.toNat_ushiftRight, Nat.shiftRight_eq_div_pow]
  omega

/-- The low 11 bits are the remainder by 2048. -/
theorem toNat_and_low11 : (v &&& 0x7FF#32).toNat = v.toNat % 2048 :=
  (BitVec.toNat_and ..).trans (Nat.and_two_pow_sub_one_eq_mod v.toNat 11)

theorem toNat_opL11 : (opL11 v).toNat = v.toNat % 2048 := by
  rw [opL11, BitVec.toNat_setWidth, toNat_and_low11]
  omega

theorem toNat_opO11 : (opO11 v).toNat = v.toNat % 2048 / 4 := by
  rw [opO11, BitVec.toNat_setWidth, BitVec.toNat_ushiftRight, toNat_and_low11, Nat.shiftRight_eq_div_pow]
  omega

/-- Bit 10 alone, as a number. -/
theorem toNat_and_bit10 : (v &&& 0x400#32).toNat = v.toNat / 1024 % 2 * 1024 := by
  calc (v &&& 0x400#32).toNat
    _ = v.toNat &&& 2 ^ 10 := BitVec.toNat_and ..
    _ = (v.toNat.testBit 10).toNat * 2 ^ 10 := Nat.and_two_pow ..
    _ = v.toNat / 1024 % 2 * 1024 := by rw [Nat.toNat_testBit]; rfl

theorem toNat_opEh21 : (opEh21 v).toNat = (v.toNat + v.toNat / 1024 % 2 * 1024) % 2 ^ 32 / 2048 := by
  rw [opEh21, BitVec.toNat_setWidth, BitVec.toNat_ushiftRight, BitVec.toNat_add, toNat_and_bit10, Nat.shiftRight_eq_div_pow]
  omega

/-- `@ho11` is bits 10 to 1. -/
theorem opHo11_eq_slice : opHo11 v = v.extractLsb' 1 10 := by
  apply BitVec.eq_of_getLsbD_eq
  intro k hk
  have hinside : 22 + k < 32 := by omega
  have hplace : 22 + k - 21 = 1 + k := by omega
  have hsource : ¬ 32 ≤ k ∧ ¬ 22 + k < 21 := by omega
  rw [opHo11, BitVec.getLsbD_setWidth, BitVec.getLsbD_sshiftRight, BitVec.getLsbD_shiftLeft, BitVec.getLsbD_extractLsb']
  simp [hk, hinside, hplace, hsource]

/-- `@ho11` as a signed number: half of the low 11 bits, where bit 10 counts negative. -/
theorem toInt_opHo11 :
    (opHo11 v).toInt = (v.toNat / 2 % 1024 : Nat) - (v.toNat / 1024 % 2 * 1024 : Nat) := by
  have hslice : (opHo11 v).toNat = v.toNat / 2 % 1024 := by
    rw [opHo11_eq_slice, BitVec.extractLsb'_toNat, Nat.shiftRight_eq_div_pow]
  rw [BitVec.toInt_eq_toNat_cond, hslice]
  split <;> omega

/-! ## The pairs -/

/-- A field that does not reach bit 31, scaled. -/
theorem toNat_setWidth_shiftLeft {n : Nat} (x : BitVec n) {k : Nat} (h : n + k ≤ 32) :
    (x.setWidth 32 <<< k).toNat = x.toNat * 2 ^ k := by
  have hfits : x.toNat * 2 ^ k < 2 ^ 32 := calc
    x.toNat * 2 ^ k < 2 ^ n * 2 ^ k := Nat.mul_lt_mul_of_pos_right x.isLt (Nat.two_pow_pos k)
    _ = 2 ^ (n + k) := (Nat.pow_add 2 n k).symm
    _ ≤ 2 ^ 32 := Nat.pow_le_pow_right (by decide) h
  rw [BitVec.toNat_shiftLeft, BitVec.toNat_setWidth_of_le (by omega), Nat.shiftLeft_eq, Nat.mod_eq_of_lt hfits]

/-- The two fields of `@h21` and `@l11` do not overlap, so the OR is the sum. -/
theorem opH21_or_opL11 : ((opH21 v).setWidth 32 <<< 11) ||| (opL11 v).setWidth 32 = v := by
  have hlow : v.toNat % 2048 < 2 ^ 11 := Nat.mod_lt _ (by decide)
  apply BitVec.eq_of_toNat_eq
  rw [BitVec.toNat_or, toNat_setWidth_shiftLeft _ (by decide), BitVec.toNat_setWidth_of_le (by decide), toNat_opH21,
    toNat_opL11, ← Nat.shiftLeft_eq, ← Nat.shiftLeft_add_eq_or_of_lt hlow, Nat.shiftLeft_eq]
  exact Nat.div_add_mod' v.toNat 2048

theorem opH21_add_opO11 (h : v &&& 3#32 = 0#32) :
    ((opH21 v).setWidth 32 <<< 11) + ((opO11 v).setWidth 32 <<< 2) = v := by
  have haligned : v.toNat % 4 = 0 := by
    rw [← Nat.and_two_pow_sub_one_eq_mod v.toNat 2]
    exact congrArg BitVec.toNat h
  apply BitVec.eq_of_toNat_eq
  rw [BitVec.toNat_add, toNat_setWidth_shiftLeft _ (by decide), toNat_setWidth_shiftLeft _ (by decide), toNat_opH21,
    toNat_opO11]
  omega

/-- Where bit 10 is set, `@eh21` is one more than `@h21`, for `@ho11` counts that bit negative. -/
theorem opEh21_add_opHo11 (h : v &&& 1#32 = 0#32) :
    ((opEh21 v).setWidth 32 <<< 11) + ((opHo11 v).signExtend 32 <<< 1) = v := by
  have heven : v.toNat % 2 = 0 := by
    rw [← Nat.and_two_pow_sub_one_eq_mod v.toNat 1]
    exact congrArg BitVec.toNat h
  have hdouble : (opHo11 v).signExtend 32 <<< 1 = BitVec.ofInt 32 (2 * (opHo11 v).toInt) := by
    rw [BitVec.shiftLeft_eq_mul_twoPow, BitVec.mul_comm, BitVec.ofInt_mul]
    rfl
  apply BitVec.eq_of_toNat_eq
  rw [BitVec.toNat_add, toNat_setWidth_shiftLeft _ (by decide), hdouble, BitVec.toNat_ofInt, toNat_opEh21, toInt_opHo11]
  obtain hbit | hbit := Nat.mod_two_eq_zero_or_one (v.toNat / 1024) <;> rw [hbit] <;> omega

end

end Sys2Proof.Machine

namespace Sys2Proof.Proofs

open Sys2Proof Sys2Proof.Machine

/-- Settles O60: the pairs, one by one. -/
theorem assemblerOperators : Obligations.AssemblerOperators := by
  unfold Obligations.AssemblerOperators
  intro v
  exact ⟨opH21_or_opL11 v, opEh21_add_opHo11 v, opH21_add_opO11 v⟩

/-- Settles O56, by running the decoder on the six words. -/
theorem knownWords : Obligations.KnownWords := by
  unfold Obligations.KnownWords
  exact ⟨rfl, rfl, rfl, rfl, rfl, rfl⟩

end Sys2Proof.Proofs
end
